-- ==== Sys2Proof/Word.lean ====
section
/-! DEFINITION. The data widths of the machine (spec 00_scope R5, R7): bytes, selector nibbles, 16-bit words and
32-bit instruction words. All are unsigned; the only arithmetic is addition modulo 65536, which is `BitVec` addition. -/

namespace Sys2Proof

/-- `u4`: one operand-selector code (00_scope R5, 30_encoding R80). -/
abbrev Nibble := BitVec 4

/-- `u8`: one byte of a RAM device, and the two 8-bit instruction fields (00_scope R7). -/
abbrev Byte := BitVec 8

/-- `u16`: every data value, RAM address, device id, the flags word and the instruction pointer (00_scope R5, R7). -/
abbrev Word := BitVec 16

/-- `u32`: the container word of an instruction (30_encoding R81). -/
abbrev InstrWord := BitVec 32

end Sys2Proof
end

