-- ==== Sys2Proof/Syntax.lean ====
section
/-! DEFINITION. The instructions: one constructor of `Instr` per mnemonic of spec/opcode_table.json, each with the
three decoded fields that every instruction has (30_encoding R80, R87; 00_scope R9). -/

namespace Sys2Proof

/-- The index of a general register, `x[0]` to `x[3]` (10_state R20). -/
inductive Reg where
  | r0 | r1 | r2 | r3
deriving DecidableEq, Repr, Inhabited

/-- A decoded operand selector (30_encoding R84): no operand, a general register, or the immediate field. -/
inductive Sel where
  | none
  | reg (r : Reg)
  | imm
deriving DecidableEq, Repr, Inhabited

/-- The closed set of opcodes (30_encoding R83). -/
inductive Opcode where
  | invalid | noOp | halt | set | selectRamDevice | load | store | add
deriving DecidableEq, Repr, Inhabited

/-- A decoded instruction: its opcode, its source selector, its destination selector and its immediate, in the
document's order "source → destination". Fields an opcode never reads are kept: decoding loses none (R87, R92). -/
inductive Instr where
  | invalid (src dst : Sel) (imm : Word)
  | nop (src dst : Sel) (imm : Word)
  | halt (src dst : Sel) (imm : Word)
  | set (src dst : Sel) (imm : Word)
  | selram (src dst : Sel) (imm : Word)
  | load (src dst : Sel) (imm : Word)
  | store (src dst : Sel) (imm : Word)
  | add (src dst : Sel) (imm : Word)
deriving DecidableEq, Repr, Inhabited

/-- The decoded opcode `op` (00_scope R9). -/
def Instr.opcode : Instr → Opcode
  | .invalid _ _ _ => .invalid
  | .nop _ _ _ => .noOp
  | .halt _ _ _ => .halt
  | .set _ _ _ => .set
  | .selram _ _ _ => .selectRamDevice
  | .load _ _ _ => .load
  | .store _ _ _ => .store
  | .add _ _ _ => .add

/-- The decoded source selector `S` (00_scope R9). -/
def Instr.src : Instr → Sel
  | .invalid s _ _ | .nop s _ _ | .halt s _ _ | .set s _ _ => s
  | .selram s _ _ | .load s _ _ | .store s _ _ | .add s _ _ => s

/-- The decoded destination selector `D` (00_scope R9). -/
def Instr.dst : Instr → Sel
  | .invalid _ d _ | .nop _ d _ | .halt _ d _ | .set _ d _ => d
  | .selram _ d _ | .load _ d _ | .store _ d _ | .add _ d _ => d

/-- The immediate field (30_encoding R86). -/
def Instr.imm : Instr → Word
  | .invalid _ _ v | .nop _ _ v | .halt _ _ v | .set _ _ v => v
  | .selram _ _ v | .load _ _ v | .store _ _ v | .add _ _ v => v

/-- The instruction that the tuple `(op, S, D, imm)` of 30_encoding R87 stands for. -/
def Instr.build : Opcode → Sel → Sel → Word → Instr
  | .invalid => .invalid
  | .noOp => .nop
  | .halt => .halt
  | .set => .set
  | .selectRamDevice => .selram
  | .load => .load
  | .store => .store
  | .add => .add

end Sys2Proof
end

