-- ==== Sys2Proof/WellFormed.lean ====
section
/-! DEFINITION. The legal operand combinations (30_encoding R88, `Legal`). Legality is a contract on whoever builds
instructions; the engine makes no such check (R89), so the meanings cover the other instructions too. -/

namespace Sys2Proof

/-- "reg/imm": a selector that supplies a value and is not `None` (R88). -/
def Sel.isRegOrImm : Sel → Bool
  | .none => false
  | .reg _ => true
  | .imm => true

/-- "reg": a register selector (R88). -/
def Sel.isReg : Sel → Bool
  | .reg _ => true
  | .none => false
  | .imm => false

/-- "none" (R88). -/
def Sel.isNone : Sel → Bool
  | .none => true
  | .reg _ => false
  | .imm => false

/-- `Legal(op, S, D)`, row by row (R88). -/
def Legal : Opcode → Sel → Sel → Bool
  | .invalid, _, _ => false
  | .noOp, s, d => s.isNone && d.isNone
  | .halt, s, d => s.isNone && d.isNone
  | .set, s, d => s.isRegOrImm && d.isReg
  | .selectRamDevice, s, d => s.isRegOrImm && d.isNone
  | .load, s, d => s.isRegOrImm && d.isReg
  | .store, s, d => s.isRegOrImm && d.isRegOrImm
  | .add, s, d => s.isRegOrImm && d.isReg

/-- An instruction is well formed when its operand combination is legal (R88). -/
def Instr.wellFormed (i : Instr) : Bool := Legal i.opcode i.src i.dst

end Sys2Proof
end

