-- ==== Sys2Proof/Decode.lean ====
section
/-! DEFINITION. Decoding, total on every word and every selector code (30_encoding R80 to R87), the serialisation of
an instruction word as bytes (R82), and the encoder (R92). The container word and its byte order are the spec's own
decision D3: DESIGN CHOICE, unobservable by a program (log 12). -/

namespace Sys2Proof

/-! ### Fields of the container word (R81, R85) -/

/-- `opcode_raw = instr[31:24]` (R81). -/
def opcodeRaw (w : InstrWord) : Byte := w.extractLsb' 24 8

/-- `operand = instr[23:16]` (R81). -/
def operandByte (w : InstrWord) : Byte := w.extractLsb' 16 8

/-- `dst_sel = operand[7:4]`, the high nibble of the operand byte (R85). -/
def dstNibble (operand : Byte) : Nibble := operand.extractLsb' 4 4

/-- `src_sel = operand[3:0]`, the low nibble of the operand byte (R85). -/
def srcNibble (operand : Byte) : Nibble := operand.extractLsb' 0 4

/-- `imm = instr[15:0]` (R81, R86). -/
def immField (w : InstrWord) : Word := w.extractLsb' 0 16

/-! ### Decoding -/

/-- Opcode decoding (R83): 0 to 7 are the eight opcodes, every other value is `Invalid`. -/
def Opcode.ofByte (b : Byte) : Opcode :=
  match b.toNat with
  | 0 => .invalid
  | 1 => .noOp
  | 2 => .halt
  | 3 => .set
  | 4 => .selectRamDevice
  | 5 => .load
  | 6 => .store
  | 7 => .add
  | _ => .invalid

/-- Operand-selector decoding (R84), the same for source and destination: 0 and 6 to 15 are `None`. -/
def Sel.ofNibble (n : Nibble) : Sel :=
  match n.toNat with
  | 1 => .reg .r0
  | 2 => .reg .r1
  | 3 => .reg .r2
  | 4 => .reg .r3
  | 5 => .imm
  | _ => .none

/-- `Decode(instr)` (R87): total, infallible, a function of the word alone. -/
def decode (w : InstrWord) : Instr :=
  .build (.ofByte (opcodeRaw w)) (.ofNibble (srcNibble (operandByte w))) (.ofNibble (dstNibble (operandByte w)))
    (immField w)

/-- Why a byte string gives no instruction: it is shorter than the one instruction length (R91). No word is refused.
The rejection is the model's own, DESIGN CHOICE, safe: log 26. -/
inductive DecodeError where
  | truncated
deriving DecidableEq, Repr

/-- The four bytes of an instruction word, most significant first (R82). -/
def serialize (w : InstrWord) : List Byte :=
  [w.extractLsb' 24 8, w.extractLsb' 16 8, w.extractLsb' 8 8, w.extractLsb' 0 8]

/-- Decoding the first instruction of a byte string, with the bytes after it (R82, R91). -/
def decodeBytes : List Byte → Except DecodeError (Instr × List Byte)
  | b0 :: b1 :: b2 :: b3 :: rest => .ok (decode (b0 ++ b1 ++ b2 ++ b3), rest)
  | _ => .error .truncated

/-- The instruction the decoder reads from the bits `w` of a row of the opcode table. The table numbers the bits of
the one 32-bit word, so the bytes laid out are those of that word (R82). -/
def decodeTableWord (nbits w : Nat) : Option Instr :=
  match decodeBytes (serialize (BitVec.ofNat 32 (w % 2 ^ nbits))) with
  | .ok (i, _) => some i
  | .error _ => none

/-! ### Encoding (R92) -/

/-- The code of an opcode (R83); `Invalid` encodes as 0 (R92). -/
def Opcode.code : Opcode → Byte
  | .invalid => 0
  | .noOp => 1
  | .halt => 2
  | .set => 3
  | .selectRamDevice => 4
  | .load => 5
  | .store => 6
  | .add => 7

/-- The code of a selector (R84); `None` encodes as 0 (R92). -/
def Sel.code : Sel → Nibble
  | .none => 0
  | .reg .r0 => 1
  | .reg .r1 => 2
  | .reg .r2 => 3
  | .reg .r3 => 4
  | .imm => 5

/-- `Encode(op, S, D, imm)`: `opcode_raw ++ dst_sel ++ src_sel ++ imm` (R81, R92). -/
def encode (i : Instr) : InstrWord :=
  i.opcode.code ++ i.dst.code ++ i.src.code ++ i.imm

/-- The instruction with every field that it does not read cleared: selectors to `None`, the immediate to 0. Its
encoding is the canonical encoding of `i` (R86, R89, R92). -/
def canonical : Instr → Instr
  | .invalid _ _ _ => .invalid .none .none 0
  | .nop _ _ _ => .nop .none .none 0
  | .halt _ _ _ => .halt .none .none 0
  | .set s d v => .set s d (if s = .imm then v else 0)
  | .selram s _ v => .selram s .none (if s = .imm then v else 0)
  | .load s d v => .load s d (if s = .imm then v else 0)
  | .store s d v => .store s d (if s = .imm ∨ d = .imm then v else 0)
  | .add s d v => .add s d (if s = .imm then v else 0)

end Sys2Proof
end

