-- ==== Sys2Proof/Config.lean ====
section
/-! DEFINITION. The parameters of the hardware (00_scope R5) at the values the spec gives them, and the free values:
constants without a body, of which nothing can be proved. -/

namespace Sys2Proof

/-- The failures a device may report of its own (20_memory R42, 60_exceptions R176). -/
inductive DevFailure where
  | invalidInput
  | wrongArgumentCount
deriving DecidableEq, Repr, Inhabited

/-- The answer of a device action (20_memory R42): a data result, the sentinel `NoOutput`, or a typed failure. -/
inductive DevAnswer where
  | data (v : Word)
  | noOutput
  | fail (k : DevFailure)
deriving DecidableEq, Repr, Inhabited

namespace Config

/-! The defaults of the parameters of 00_scope R5. The model takes each parameter as an argument: `Params` for the reset
values and the device bound, the contents of `Device.newRam` for `RAM_INIT`, lists of `Txn` for `Driver` (log 29). -/

/-- The default of `REG_RESET` (00_scope R5, 10_state R36). DESIGN CHOICE (the spec's decision D7), unsafe: log 1. -/
def regReset : Word := 0

/-- The default of `FLAGS_RESET`, bits 15:1 (00_scope R5, 10_state R36); bit 0 at reset is 0 and not open (U7).
DESIGN CHOICE (D7), unsafe: log 1. -/
def flagsReset : BitVec 15 := 0

/-- The default of `IP_RESET` (00_scope R5, 10_state R36). DESIGN CHOICE (D7), unsafe: log 1. -/
def ipReset : Word := 0

/-- What a byte that a backing array does not list reads as: the byte of the default `RAM_INIT` (00_scope R5,
10_state R36). DESIGN CHOICE (D7), unsafe: log 2. -/
def unlistedByte : Byte := 0

/-- The default of `RAM_INIT`, the contents of a new RAM device: nothing listed, so every byte is 0 (00_scope R5,
10_state R36). DESIGN CHOICE (D7), unsafe: log 2. -/
def ramInit : List (Nat × Byte) := []

/-- The default of `MAX_DEVICES` (00_scope R5, 20_memory R47). The literal is unaudited (U9): UNVERIFIED, unsafe:
log 15, log 24. -/
def maxDevices : Nat := 65536

/-- `RAM_BYTES`: the size of every RAM device (00_scope R5, 20_memory R52). -/
def ramBytes : Nat := 65536

/-- The largest program the reference driver holds (70_reset_and_hazards R206, `0 <= N <= 65536`). -/
def maxProgram : Nat := 65536

/-- The answer of the primary action of a device that is not a RAM device: draw number, id, address. FREE VALUE: the
sources give such a device no behaviour (20_memory R51, U10). DESIGN CHOICE, safe: log 9. -/
opaque otherPrimary : Nat → Word → Word → DevAnswer

/-- The answer of the secondary action of a device that is not a RAM device: draw number, id, address, value.
FREE VALUE, like `otherPrimary`: log 9. -/
opaque otherSecondary : Nat → Word → Word → Word → DevAnswer

end Config

end Sys2Proof
end

