-- ==== Sys2Proof/Machine/State.lean ====
section
/-! DEFINITION. The state of the machine, the reasons a step can stop, and the state after reset. -/

namespace Sys2Proof.Machine

open Sys2Proof

/-- The register file: four general 16-bit registers, none hardwired, no banks (10_state R20, R22). -/
structure RegFile where
  x0 : Word
  x1 : Word
  x2 : Word
  x3 : Word
deriving DecidableEq, Repr

/-- The backing array of a RAM device (10_state R30, 20_memory R52): byte address and byte, addresses strictly
rising, no entry equal to `Config.unlistedByte`, which is what an unlisted address reads as (`Memory.wf`). -/
abbrev Memory := List Host.Cell

/-- The type of a device with the state that comes with it (20_memory R41). Only `ram` is in scope (R51). `other` is
an abstract device beyond the sources, admitted as R51 allows, with free answers: DESIGN CHOICE, safe: log 9. -/
inductive DeviceKind where
  | ram (mem : Memory)
  | other
deriving DecidableEq, Repr

/-- A device: its header `id`, fixed for its life, and its type (20_memory R41, 10_state R30). -/
structure Device where
  id : Word
  kind : DeviceKind
deriving DecidableEq, Repr

/-- A configuration transaction of the CFG interface (10_state R32). -/
inductive CfgTxn where
  | connectDevice (d : Device)
  | selectRamDevice (id : Word)
deriving DecidableEq, Repr

/-- The error kinds (60_exceptions R170). -/
inductive ErrorKind where
  | programError
  | deviceDoesNotExist
  | deviceIdExists
  | tooManyDevices
  | invalidInput
  | wrongArgumentCount
  | noOutput
  | contractViolation
  | noActiveRamDevice
deriving DecidableEq, Repr

/-- The result of a transaction (60_exceptions R170). -/
inductive TxnResult where
  | ok
  | err (k : ErrorKind)
deriving DecidableEq, Repr

/-- How a run of the reference driver ended (70_reset_and_hazards R209). -/
inductive RunOutcome where
  | halted
  | faulted (k : ErrorKind)
  | ranOffEnd
deriving DecidableEq, Repr

/-- The parameters that a run is given, each with the default of 00_scope R5 (log 29). No transaction changes them. Of
the other two parameters of R5, `RAM_INIT` is the contents given to `Device.newRam`, one for each RAM device
(00_scope R14), and `Driver` is the list of transactions given to `runTxns`, with `step` for its default. -/
structure Params where
  /-- `REG_RESET`: what each general register holds at reset. -/
  regReset : Word := Config.regReset
  /-- `FLAGS_RESET`, bits 15:1: what they hold at reset. Bit 0 is 0 at reset and not open (U7). -/
  flagsReset : BitVec 15 := Config.flagsReset
  /-- `IP_RESET`: what `pc` holds at reset. -/
  ipReset : Word := Config.ipReset
  /-- `MAX_DEVICES`: the largest number of devices a registry holds (20_memory R47). -/
  maxDevices : Nat := Config.maxDevices
deriving DecidableEq, Repr

/-- The whole state: the engine and its registry (00_scope R14), the reference driver's program, remaining prelude
and outcome (70_reset_and_hazards R206 to R210), the model's own fields `result`, `haltReq` and `draws` (log 5, log 10),
and the parameters of the run (log 29). -/
structure State where
  /-- `x[0]` to `x[3]` (10_state R20). -/
  regs : RegFile
  /-- The flags word; bit 0 is the NOP-skip flag (10_state R25, R26). -/
  flags : Word
  /-- The instruction pointer, owned by the driver (10_state R23). -/
  pc : Word
  /-- The active-RAM-device selection, held as an id (10_state R28, log 27). -/
  active : Option Word
  /-- The connected devices, in the order of connection (10_state R29). -/
  registry : List Device
  /-- The reference driver's program store (70_reset_and_hazards R206). -/
  prog : List InstrWord
  /-- What is left of the reference driver's prelude (70_reset_and_hazards R206, R207). -/
  pending : List CfgTxn
  /-- How the run ended; `none` while it goes on (70_reset_and_hazards R209). -/
  outcome : Option RunOutcome
  /-- The result that the last transaction returned: an output, held so that a step can show it (log 5). -/
  result : TxnResult
  /-- The `halt_req` output of the last transaction (10_state R31, log 5). -/
  haltReq : Bool
  /-- How many answers of abstract devices have been drawn: the model's own (log 10). -/
  draws : Nat
  /-- The parameters of the run (00_scope R5, log 29). -/
  params : Params
deriving DecidableEq, Repr

/-- Why the machine stops. -/
inductive Fault where
  /-- A dispatched Set, Load or Add whose destination is no register, or a dispatched Store whose destination is
  `None` (60_exceptions R173: "A model must treat it as a *fault*"; D4, D5, U1, U2). Raised by `raise`. Safe. -/
  | contractViolation
  /-- A dispatched Load or Store while no device is selected (60_exceptions R174, D6, U4). Raised by `raise`. Safe. -/
  | noActiveRamDevice
  /-- A Load or Store while `active` is an id that no device has. No run reaches it (20_memory R50, U8); raised by
  `activeDevice` in states no run reaches. The model's own, safe: log 11. -/
  | activeNotRegistered
deriving DecidableEq, Repr

/-- Why a step has no meaning. -/
inductive Refusal where
  /-- An instruction without a meaning in `exec`. No arm raises it. Safe. -/
  | notModelled (mnemonic : String)
deriving DecidableEq, Repr

/-- The machine right after reset with given parameters (10_state R36, 70_reset_and_hazards R200, R207): no device
connected, nothing selected, the NOP-skip flag clear, no program placed (log 8). -/
def State.resetWith (p : Params) : State where
  regs := ⟨p.regReset, p.regReset, p.regReset, p.regReset⟩
  flags := p.flagsReset ++ 0#1
  pc := p.ipReset
  active := none
  registry := []
  prog := []
  pending := []
  outcome := none
  result := .ok
  haltReq := false
  draws := 0
  params := p

/-- The machine right after reset with every parameter at its default: the zeros of registers, `flags[15:1]` and `pc`
are decision D7 (log 1). -/
def State.reset : State := .resetWith {}

end Sys2Proof.Machine
end

