-- ==== Sys2Proof/Machine/Flags.lean ====
section
/-! DEFINITION. The flags word. Its one meaning is bit 0, the NOP-skip flag (10_state R25, R26); there are no
condition codes (R27), so no instruction computes a flag from a result. -/

namespace Sys2Proof.Machine

open Sys2Proof

/-- `flags[0]`, the NOP-skip flag (10_state R25). -/
def skipBit (flags : Word) : Bool := flags.getLsbD 0

/-- `flags[0] <- 1`; bits 15:1 keep their values (41_control R131). -/
def withSkipSet (flags : Word) : Word := flags ||| 1#16

/-- `flags[0] <- 0`; bits 15:1 keep their values (40_execute_step R111). -/
def withSkipClear (flags : Word) : Word := flags &&& 0xFFFE#16

/-- `flags[15:1]`, reserved: written by nothing and read by nothing (10_state R25, D15, log 17). -/
def reservedFlags (flags : Word) : BitVec 15 := flags.extractLsb' 1 15

/-- The NOP-skip flag of a state (10_state R26). -/
def State.skip (s : State) : Bool := skipBit s.flags

/-- The dispatched NoOp's write of the flag (41_control R131). -/
def State.setSkip (s : State) : State := { s with flags := withSkipSet s.flags }

/-- Step 1's write of the flag (40_execute_step R111). -/
def State.clearSkip (s : State) : State := { s with flags := withSkipClear s.flags }

end Sys2Proof.Machine
end

