-- ==== Sys2Proof/Machine/Ops.lean ====
section
/-! DEFINITION. The named operations the meanings are written over: the register file, the bytes and words of a RAM
device, device actions, the registry, the two memory primitives, and the two ways a transaction ends, `returnOk` and
`raise`. -/

namespace Sys2Proof.Machine

open Sys2Proof

/-- What a transaction or a step answers. -/
abbrev Out := Host.Outcome State Fault Refusal

/-! ### Registers (10_state R20 to R22) -/

/-- `x[r]`. -/
def RegFile.read (f : RegFile) : Reg → Word
  | .r0 => f.x0
  | .r1 => f.x1
  | .r2 => f.x2
  | .r3 => f.x3

/-- `x[r] <- v`. -/
def RegFile.write (f : RegFile) (r : Reg) (v : Word) : RegFile :=
  match r with
  | .r0 => { f with x0 := v }
  | .r1 => { f with x1 := v }
  | .r2 => { f with x2 := v }
  | .r3 => { f with x3 := v }

/-- `x[r]` of a state. -/
def State.readReg (s : State) (r : Reg) : Word := s.regs.read r

/-- `x[r] <- v` in a state. -/
def State.writeReg (s : State) (r : Reg) (v : Word) : State := { s with regs := s.regs.write r v }

/-! ### The bytes of a RAM device (20_memory R52) -/

/-- Byte `a` of the backing array; an unlisted byte reads as `Config.unlistedByte` (10_state R36, log 2). -/
def Memory.readByte : Memory → Nat → Byte
  | [], _ => Config.unlistedByte
  | (k, b) :: m, a => if k = a then b else Memory.readByte m a

/-- Byte `a` set to `v`, in canonical form: a byte equal to `Config.unlistedByte` is not listed. -/
def Memory.writeByte : Memory → Nat → Byte → Memory
  | [], a, v => if v = Config.unlistedByte then [] else [(a, v)]
  | (k, b) :: m, a, v =>
    if a < k then
      if v = Config.unlistedByte then (k, b) :: m else (a, v) :: (k, b) :: m
    else if a = k then
      if v = Config.unlistedByte then m else (a, v) :: m
    else (k, b) :: Memory.writeByte m a v

/-- Every listed address is above `lo`, the addresses rise strictly and stay below the size of a RAM device, and no
listed byte is `Config.unlistedByte`. -/
def Memory.wfAbove : Nat → Memory → Bool
  | _, [] => true
  | lo, (k, b) :: m =>
    decide (lo ≤ k) && decide (k < Config.ramBytes) && decide (b ≠ Config.unlistedByte) && Memory.wfAbove (k + 1) m

/-- The canonical form of a backing array. -/
def Memory.wf (m : Memory) : Bool := Memory.wfAbove 0 m

/-! ### The RAM device (20_memory R52 to R60) -/

/-- `Align(a) = a[15:1] ++ 0b0` (20_memory R53). -/
def align (a : Word) : Word := a.extractLsb' 1 15 ++ 0#1

/-- `mem[e] ++ mem[e + 1]` with `e = Align(a)`, big-endian (20_memory R54, R58). -/
def Memory.readWord (m : Memory) (a : Word) : Word :=
  m.readByte (align a).toNat ++ m.readByte ((align a).toNat + 1)

/-- `mem[e] <- v[15:8]; mem[e + 1] <- v[7:0]` with `e = Align(a)` (20_memory R54, R59). -/
def Memory.writeWord (m : Memory) (a v : Word) : Memory :=
  (m.writeByte (align a).toNat (v.extractLsb' 8 8)).writeByte ((align a).toNat + 1) (v.extractLsb' 0 8)

/-! ### Device actions (20_memory R40 to R44) -/

/-- A RAM device as the driver creates it: it holds `RAM_INIT`, a parameter with a value for each device (00_scope R5,
R14, 70_reset_and_hazards R200, log 28). -/
def Device.newRam (id : Word) (init : Memory := Config.ramInit) : Device := ⟨id, .ram init⟩

/-- The canonical form of a device's backing array, if it has one. -/
def Device.wf (d : Device) : Bool :=
  match d.kind with
  | .ram m => m.wf
  | .other => true

/-- Whether a device is a RAM device (20_memory R51). -/
def Device.isRam (d : Device) : Bool :=
  match d.kind with
  | .ram _ => true
  | .other => false

/-- `primary(a)` (20_memory R43): a RAM device reads a word and always answers `Data` (R58). The answer of an abstract
device is free (log 9); `n` picks it. -/
def Device.primary (d : Device) (n : Nat) (a : Word) : DevAnswer :=
  match d.kind with
  | .ram m => .data (m.readWord a)
  | .other => Config.otherPrimary n d.id a

/-- `secondary(a, v)` (20_memory R44): a RAM device writes a word and always answers `NoOutput` (R59). The answer of
an abstract device is free (log 9). The second component is the device after the action. -/
def Device.secondary (d : Device) (n : Nat) (a v : Word) : DevAnswer × Device :=
  match d.kind with
  | .ram m => (.noOutput, { d with kind := .ram (m.writeWord a v) })
  | .other => (Config.otherSecondary n d.id a v, d)

/-- The error kind a device failure propagates as (60_exceptions R176, R178). -/
def failureKind : DevFailure → ErrorKind
  | .invalidInput => .invalidInput
  | .wrongArgumentCount => .wrongArgumentCount

/-! ### The registry (20_memory R46 to R50) -/

/-- The first device of a list with the given id (20_memory R48, a linear scan). -/
def findDevice : List Device → Word → Option Device
  | [], _ => none
  | d :: ds, id => if d.id = id then some d else findDevice ds id

/-- The list with its first device of `d`'s id replaced by `d` (ids are unique: log 21). -/
def replaceDevice : List Device → Device → List Device
  | [], _ => []
  | e :: es, d => if e.id = d.id then d :: es else e :: replaceDevice es d

/-- `dev(id)` (20_memory R48). -/
def State.dev (s : State) (id : Word) : Option Device := findDevice s.registry id

/-- The ids of the connected devices, in order (10_state R29). -/
def State.ids (s : State) : List Word := s.registry.map Device.id

/-- The driver's observation of one byte of a RAM device's `mem` (10_state R33, 20_memory R63); nothing where no RAM
device has the id. -/
def State.readByte (s : State) (id a : Word) : Option Byte :=
  match s.dev id with
  | some d =>
    match d.kind with
    | .ram m => some (m.readByte a.toNat)
    | .other => none
  | none => none

/-! ### The ends of a transaction (00_scope R12, 60_exceptions R178) -/

/-- `return Ok`, with `halt_req = 0`. -/
def returnOk (s : State) : Out := .next { s with result := .ok, haltReq := false }

/-- `return Ok` of a dispatched Halt, with `halt_req = 1` (41_control R132, 10_state R31). -/
def returnHalt (s : State) : Out := .next { s with result := .ok, haltReq := true }

/-- `raise E`, the one way a transaction fails (00_scope R12, 60_exceptions R178, R179): nothing is saved and nothing
changes; the kind is the transaction's result and control is the driver's again. The two kinds the spec tells a model
to treat as a fault are faults (R173, R174; log 3, log 4). There is no return from an error (R180). -/
def raise (k : ErrorKind) (s : State) : Out :=
  match k with
  | .contractViolation => .fault .contractViolation
  | .noActiveRamDevice => .fault .noActiveRamDevice
  | k => .next { s with result := .err k, haltReq := false }

/-! ### Memory primitives (20_memory R61, R62) -/

/-- What a memory primitive comes to: a value with the state after the access, an error to raise with the state it is
raised in, or a stop. -/
inductive Access (α : Type) where
  | done (v : α) (s : State)
  | err (k : ErrorKind) (s : State)
  | stop (f : Fault)
deriving DecidableEq, Repr

/-- The instruction goes on with the value of an access, or raises its error. -/
def Access.andThen {α : Type} (r : Access α) (f : α → State → Out) : Out :=
  match r with
  | .done v s => f v s
  | .err k s => raise k s
  | .stop e => .fault e

/-- The active device: `NoActiveRamDevice` when nothing is selected (60_exceptions R174); the id is looked up again
at every access (10_state R28, D11, log 27). That it is missing cannot arise (20_memory R50, log 11). -/
def activeDevice (s : State) : Access Device :=
  match s.active with
  | none => .err .noActiveRamDevice s
  | some id =>
    match s.dev id with
    | none => .stop .activeNotRegistered
    | some d => .done d s

/-- The count of drawn answers after an action of `d`: a RAM device draws none (log 10). -/
def State.countDraw (s : State) (d : Device) : State :=
  match d.kind with
  | .ram _ => s
  | .other => { s with draws := s.draws + 1 }

/-- The registry after an action that left the device as `d`. -/
def State.putDevice (s : State) (d : Device) : State := { s with registry := replaceDevice s.registry d }

/-- How `MemRead` treats the answer of the primary action (20_memory R61, D14). -/
def readAnswer (r : DevAnswer) (s : State) : Access Word :=
  match r with
  | .data v => .done v s
  | .noOutput => .err .noOutput s
  | .fail k => .err (failureKind k) s

/-- How `MemWrite` treats the answer of the secondary action: `NoOutput` is success, `Data` is discarded
(20_memory R62, D14). -/
def writeAnswer (r : DevAnswer) (s : State) : Access Unit :=
  match r with
  | .data _ => .done () s
  | .noOutput => .done () s
  | .fail k => .err (failureKind k) s

/-- `MemRead(addr, 2)` (20_memory R61). -/
def memRead (a : Word) (s : State) : Access Word :=
  match activeDevice s with
  | .done d s => readAnswer (d.primary s.draws a) (s.countDraw d)
  | .err k s => .err k s
  | .stop f => .stop f

/-- `MemWrite(addr, 2, v)` (20_memory R62). -/
def memWrite (a v : Word) (s : State) : Access Unit :=
  match activeDevice s with
  | .done d s =>
    writeAnswer (d.secondary s.draws a v).1 ((s.putDevice (d.secondary s.draws a v).2).countDraw d)
  | .err k s => .err k s
  | .stop f => .stop f

/-! ### The configuration operations (20_memory R47, R49) -/

/-- `connect_device(d)` (20_memory R47): the bound, a parameter (log 29), is tested first (D12, log 15). -/
def connectDevice (d : Device) (s : State) : Out :=
  if s.registry.length + 1 > s.params.maxDevices then raise .tooManyDevices s
  else if (s.dev d.id).isSome then raise .deviceIdExists s
  else returnOk { s with registry := s.registry ++ [d] }

/-- `select_ram_device(id)` (20_memory R49); the SelectRamDevice instruction has the same effect (43_device_access
R150). No device type is tested (R150, corner case 5). -/
def selectRamDevice (id : Word) (s : State) : Out :=
  match s.dev id with
  | none => raise .deviceDoesNotExist s
  | some _ => returnOk { s with active := some id }

/-! ### Result codes (60_exceptions R170) -/

/-- The code of a result on the result bus: the spec's own assignment, on which nothing depends (D10, log 25). -/
def TxnResult.code : TxnResult → Nat
  | .ok => 0
  | .err .programError => 1
  | .err .deviceDoesNotExist => 2
  | .err .deviceIdExists => 3
  | .err .tooManyDevices => 4
  | .err .invalidInput => 5
  | .err .wrongArgumentCount => 6
  | .err .noOutput => 7
  | .err .contractViolation => 8
  | .err .noActiveRamDevice => 9

end Sys2Proof.Machine
end

