-- ==== Sys2Proof/Machine/Operands.lean ====
section
/-! DEFINITION. Operand resolution (40_execute_step R113 to R115). Every operand is read in the state at the start of
the transaction (R116). -/

namespace Sys2Proof.Machine

open Sys2Proof

/-- `SrcVal(S, imm)` (40_execute_step R113): no operand is 0. It reads at most one register and cannot fail. -/
def srcVal (src : Sel) (imm : Word) (s : State) : Word :=
  match src with
  | .none => 0
  | .reg r => s.readReg r
  | .imm => imm

/-- `DstReg(D)` (40_execute_step R114): only a register selector is a writable location. -/
def dstReg (dst : Sel) : Option Reg :=
  match dst with
  | .reg r => some r
  | .none => none
  | .imm => none

/-- `AddrVal(D, imm)` (40_execute_step R115): the destination of Store read as a value; `none` where the rule raises
`ContractViolation` (D5, log 3). The immediate as an address is decision D5, log 14. -/
def addrVal (dst : Sel) (imm : Word) (s : State) : Option Word :=
  match dst with
  | .reg r => some (s.readReg r)
  | .imm => some imm
  | .none => none

end Sys2Proof.Machine
end

