-- ==== Sys2Proof/Machine/Control.lean ====
section
/-! DEFINITION. The control instructions Invalid, NoOp and Halt, dispatched (41_control R130 to R132). None reads its
selectors or its immediate (30_encoding R89). -/

namespace Sys2Proof.Machine

open Sys2Proof

/-- Invalid: `raise ProgramError` (41_control R130, 60_exceptions R171). -/
def execInvalid (_src _dst : Sel) (_imm : Word) (s : State) : Out := raise .programError s

/-- NoOp: `flags[0] <- 1; return Ok` (41_control R131). -/
def execNop (_src _dst : Sel) (_imm : Word) (s : State) : Out := returnOk s.setSkip

/-- Halt: `halt_req <- 1; return Ok`; the engine has no halted state (41_control R132). -/
def execHalt (_src _dst : Sel) (_imm : Word) (s : State) : Out := returnHalt s

end Sys2Proof.Machine
end

