-- ==== Sys2Proof/Machine/DeviceAccess.lean ====
section
/-! DEFINITION. The device instructions SelectRamDevice, Load and Store, dispatched (43_device_access R150 to R152). -/

namespace Sys2Proof.Machine

open Sys2Proof

/-- SelectRamDevice: `active <- Some(SrcVal(S, imm))` if that id is registered; the destination selector is never read
(43_device_access R150, 30_encoding R89). -/
def execSelram (src _dst : Sel) (imm : Word) (s : State) : Out := selectRamDevice (srcVal src imm s) s

/-- Load: `x[j] <- MemRead(SrcVal(S, imm), 2)`; the destination is tested before any device action
(43_device_access R151, 60_exceptions R182). -/
def execLoad (src dst : Sel) (imm : Word) (s : State) : Out :=
  match dstReg dst with
  | none => raise .contractViolation s
  | some j => (memRead (srcVal src imm s) s).andThen fun v t => returnOk (t.writeReg j v)

/-- Store: `MemWrite(AddrVal(D, imm), 2, SrcVal(S, imm))` (43_device_access R152). -/
def execStore (src dst : Sel) (imm : Word) (s : State) : Out :=
  match addrVal dst imm s with
  | none => raise .contractViolation s
  | some a => (memWrite a (srcVal src imm s) s).andThen fun _ t => returnOk t

end Sys2Proof.Machine
end

