-- ==== Sys2Proof/Machine/Register.lean ====
section
/-! DEFINITION. The register instructions Set and Add, dispatched (42_register R140, R141). -/

namespace Sys2Proof.Machine

open Sys2Proof

/-- Set: `x[j] <- SrcVal(S, imm)` (42_register R140). -/
def execSet (src dst : Sel) (imm : Word) (s : State) : Out :=
  match dstReg dst with
  | none => raise .contractViolation s
  | some j => returnOk (s.writeReg j (srcVal src imm s))

/-- Add: `x[j] <- (x[j] + SrcVal(S, imm)) mod 2^16`, no flag (42_register R141). -/
def execAdd (src dst : Sel) (imm : Word) (s : State) : Out :=
  match dstReg dst with
  | none => raise .contractViolation s
  | some j => returnOk (s.writeReg j (s.readReg j + srcVal src imm s))

end Sys2Proof.Machine
end

