-- ==== Sys2Proof/Machine/Dispatch.lean ====
section
/-! DEFINITION. Step 2 of `execute`: dispatch on the opcode, exhaustive (40_execute_step R112). -/

namespace Sys2Proof.Machine

open Sys2Proof

def exec (i : Instr) (s : State) : Host.Outcome State Fault Refusal :=
  match i with
  | .invalid src dst imm => Sys2Proof.Machine.execInvalid src dst imm s
  | .nop src dst imm => Sys2Proof.Machine.execNop src dst imm s
  | .halt src dst imm => Sys2Proof.Machine.execHalt src dst imm s
  | .set src dst imm => Sys2Proof.Machine.execSet src dst imm s
  | .selram src dst imm => Sys2Proof.Machine.execSelram src dst imm s
  | .load src dst imm => Sys2Proof.Machine.execLoad src dst imm s
  | .store src dst imm => Sys2Proof.Machine.execStore src dst imm s
  | .add src dst imm => Sys2Proof.Machine.execAdd src dst imm s

end Sys2Proof.Machine
end

