-- ==== Sys2Proof/Machine/Execute.lean ====
section
/-! DEFINITION. The transactions of the block's interfaces (10_state R31 to R33): `execute` on EXEC, the two
configuration transactions on CFG, and the driver's write of `pc`. Any driver is a sequence of these
(00_scope R13; the `Driver` parameter of R5). -/

namespace Sys2Proof.Machine

open Sys2Proof

/-- `execute(instr)` (40_execute_step R110): step 1 consumes the instruction when the NOP-skip flag is set (R111),
otherwise step 2 dispatches it (R112). -/
def execute (w : InstrWord) (s : State) : Out :=
  if s.skip then returnOk s.clearSkip else exec (decode w) s

/-- A configuration transaction (10_state R32). It leaves the NOP-skip flag alone (10_state R26, log 20). -/
def configure (c : CfgTxn) (s : State) : Out :=
  match c with
  | .connectDevice d => connectDevice d s
  | .selectRamDevice id => selectRamDevice id s

/-- What a driver may do between transactions (10_state R31 to R33, D19, log 19). -/
inductive Txn where
  | execute (w : InstrWord)
  | configure (c : CfgTxn)
  | writePc (v : Word)
deriving DecidableEq, Repr

/-- One transaction, atomic (00_scope R13, D18). The driver's write of `pc` returns no result (10_state R33). -/
def transact (t : Txn) (s : State) : Out :=
  match t with
  | .execute w => execute w s
  | .configure c => configure c s
  | .writePc v => .next { s with pc := v }

/-- Transactions one after another, going on after an `Err` (60_exceptions R180: the engine accepts the next
transaction normally), up to the first fault. -/
def runTxns : List Txn → State → Out
  | [], s => .next s
  | t :: ts, s =>
    match transact t s with
    | .next u => runTxns ts u
    | .fault f => .fault f
    | .refused r => .refused r

/-- A transaction that brings in only devices in canonical form. -/
def CfgTxn.wf : CfgTxn → Bool
  | .connectDevice d => d.wf
  | .selectRamDevice _ => true

/-- A transaction that brings in only devices in canonical form. -/
def Txn.wf : Txn → Bool
  | .execute _ => true
  | .configure c => c.wf
  | .writePc _ => true

end Sys2Proof.Machine
end

