-- ==== Sys2Proof/Machine/Driver.lean ====
section
/-! DEFINITION. The reference driver (70_reset_and_hazards R206 to R211), the spec's own decision D8 (log 6): one move
is one transaction of the prelude, one `execute` with the advance of `pc`, or the end of the run. -/

namespace Sys2Proof.Machine

open Sys2Proof

/-- Fetch: `prog[pc]`, counting instructions; nothing when `pc >= N` (70_reset_and_hazards R207). -/
def fetch (s : State) : Option InstrWord := s.prog[s.pc.toNat]?

/-- The end of the run. -/
def State.finish (s : State) (o : RunOutcome) : State := { s with outcome := some o }

/-- `pc <- (pc + 1) mod 2^16` (70_reset_and_hazards R208). -/
def State.advance (s : State) : State := { s with pc := s.pc + 1 }

/-- After a transaction of the prelude: an `Err(k)` ends the run with `Faulted(k)` (70_reset_and_hazards R207). -/
def afterConfigure (s : State) : State :=
  match s.result with
  | .ok => s
  | .err k => s.finish (.faulted k)

/-- After an `execute`: an `Err(k)` ends the run with `pc` at the failing instruction; an `Ok` advances `pc`, and ends
the run if `halt_req` is 1 (70_reset_and_hazards R208, R209). -/
def afterExecute (s : State) : State :=
  match s.result with
  | .ok => if s.haltReq then s.advance.finish .halted else s.advance
  | .err k => s.finish (.faulted k)

/-- A change of the state a transaction answers with. -/
def mapNext (f : State → State) (o : Out) : Out :=
  match o with
  | .next s => .next (f s)
  | .fault e => .fault e
  | .refused r => .refused r

/-- One move of the reference driver (70_reset_and_hazards R207 to R209). A run that has ended issues no further
transaction, so its state stays as it is (log 7). -/
def driverStep (s : State) : Out :=
  match s.outcome with
  | some _ => .next s
  | none =>
    match s.pending with
    | c :: cs => mapNext afterConfigure (configure c { s with pending := cs })
    | [] =>
      match fetch s with
      | none => .next (s.finish .ranOffEnd)
      | some w => mapNext afterExecute (execute w s)

/-- `prog` with the word `w` at index `n`; a shorter list is filled up with zero words first. -/
def placeWord : List InstrWord → Nat → InstrWord → List InstrWord
  | [], 0, w => [w]
  | _ :: ws, 0, w => w :: ws
  | [], n + 1, w => 0 :: placeWord [] n w
  | v :: ws, n + 1, w => v :: placeWord ws n w

end Sys2Proof.Machine
end

