-- ==== Sys2Proof/Machine/Step.lean ====
section
/-! DEFINITION. The step of the machine: one move of the reference driver with the engine (log 6), and the state whose
next step runs a given instruction word (log 8). -/

namespace Sys2Proof.Machine

open Sys2Proof

/-- One step: one transaction of the reference driver (70_reset_and_hazards R207, R208). -/
def step (s : State) : Host.Outcome State Fault Refusal := driverStep s

/-- `s` with the program loaded so that its next step fetches the word `w`: the word stands at `prog[pc]`, no prelude
is left and the run has not ended (70_reset_and_hazards R206, R207). It stands for the driver's loading of a program
(log 8). The NOP-skip flag is not touched: the fetch does not need it. -/
def State.withFetchWord (s : State) (nbits w : Nat) : State :=
  { s with
    prog := placeWord s.prog s.pc.toNat (BitVec.ofNat 32 (w % 2 ^ nbits))
    pending := []
    outcome := none }

end Sys2Proof.Machine
end

