-- ==== Sys2Proof/Safety.lean ====
section
/-! DEFINITION. The terms statements about the machine are written in: the invariant of a state, what a transition
keeps, which operands an instruction reads, final states, and the stores of a sequence of transactions. -/

namespace Sys2Proof.Machine

open Sys2Proof

/-! ### The invariant -/

/-- What holds of every state a run reaches. -/
structure GoodState (s : State) : Prop where
  /-- "no two elements have the same id" (10_state R29). -/
  ids_nodup : s.ids.Nodup
  /-- "the length never exceeds `MAX_DEVICES`" (10_state R29). -/
  devices_le : s.registry.length ≤ s.params.maxDevices
  /-- The selected id is registered (20_memory R50). -/
  active_registered : ∀ id, s.active = some id → id ∈ s.ids
  /-- Every backing array is in canonical form (log 2). -/
  devices_wf : ∀ d ∈ s.registry, d.wf = true
  /-- So is every device the prelude still has to connect (log 28). -/
  pending_wf : ∀ c ∈ s.pending, c.wf = true
  /-- "a model keeps them at their reset value forever" (10_state R27). -/
  reserved_reset : reservedFlags s.flags = s.params.flagsReset
  /-- `0 <= N <= 65536` (70_reset_and_hazards R206). -/
  prog_le : s.prog.length ≤ Config.maxProgram

/-! ### What a transition keeps -/

/-- Every general register is unchanged. -/
def KeepsRegs (s t : State) : Prop := ∀ r, t.readReg r = s.readReg r

/-- Every general register but `j` is unchanged. -/
def KeepsRegsBut (j : Reg) (s t : State) : Prop := ∀ r, r ≠ j → t.readReg r = s.readReg r

/-- Every byte of every RAM device is unchanged. -/
def KeepsMemory (s t : State) : Prop := ∀ id a, t.readByte id a = s.readByte id a

/-- Every byte of every RAM device is unchanged, but the word at `Align(a)` of device `id` (20_memory R59, R68). -/
def KeepsMemoryBut (id a : Word) (s t : State) : Prop :=
  ∀ id' b, id' ≠ id ∨ (b ≠ align a ∧ b ≠ align a + 1) → t.readByte id' b = s.readByte id' b

/-- The connected devices are the same, apart from the contents of their backing arrays. -/
def KeepsDevices (s t : State) : Prop :=
  t.ids = s.ids ∧ t.registry.map Device.isRam = s.registry.map Device.isRam

/-- The driver's state is unchanged: `pc`, the program, the prelude, the outcome of the run, and its parameters. -/
def KeepsDriver (s t : State) : Prop :=
  t.pc = s.pc ∧ t.prog = s.prog ∧ t.pending = s.pending ∧ t.outcome = s.outcome ∧ t.params = s.params

/-- The outputs of the transaction that led to `t` (10_state R31). -/
def Returned (t : State) (r : TxnResult) (h : Bool) : Prop := t.result = r ∧ t.haltReq = h

/-! ### What an instruction reads and writes -/

/-- Whether an instruction, dispatched, reads `x[r]` (10_state R21): as the source of Set, SelectRamDevice, Load, Store
or Add, as the destination of Add, or as the address register of Store. -/
def readsReg (i : Instr) (r : Reg) : Bool :=
  match i with
  | .invalid _ _ _ => false
  | .nop _ _ _ => false
  | .halt _ _ _ => false
  | .set src _ _ => src == .reg r
  | .selram src _ _ => src == .reg r
  | .load src _ _ => src == .reg r
  | .store src dst _ => src == .reg r || dst == .reg r
  | .add src dst _ => src == .reg r || dst == .reg r

/-- The register an instruction, dispatched, may write (10_state R21): the destination of Set, Load or Add. -/
def writtenReg (i : Instr) : Option Reg :=
  match i with
  | .invalid _ _ _ => none
  | .nop _ _ _ => none
  | .halt _ _ _ => none
  | .set _ dst _ => dstReg dst
  | .selram _ _ _ => none
  | .load _ dst _ => dstReg dst
  | .store _ _ _ => none
  | .add _ dst _ => dstReg dst

/-- Whether the destination selector of an instruction violates the contract of its opcode (60_exceptions R173). -/
def violatesContract (i : Instr) : Bool :=
  match i with
  | .invalid _ _ _ => false
  | .nop _ _ _ => false
  | .halt _ _ _ => false
  | .set _ dst _ => !dst.isReg
  | .selram _ _ _ => false
  | .load _ dst _ => !dst.isReg
  | .store _ dst _ => !dst.isRegOrImm
  | .add _ dst _ => !dst.isReg

/-- Whether an instruction accesses the active RAM device (60_exceptions R174). -/
def accessesRam (i : Instr) : Bool :=
  match i with
  | .invalid _ _ _ => false
  | .nop _ _ _ => false
  | .halt _ _ _ => false
  | .set _ _ _ => false
  | .selram _ _ _ => false
  | .load _ _ _ => true
  | .store _ _ _ => true
  | .add _ _ _ => false

/-! ### Runs -/

/-- A run is final exactly when its outcome is `Halted` (70_reset_and_hazards R210). -/
def State.isFinal (s : State) : Bool := s.outcome == some .halted

/-- Every instruction of the program is legal (30_encoding R88). -/
def State.legalProgram (s : State) : Prop := ∀ w ∈ s.prog, (decode w).wellFormed = true

/-- `n` steps of the machine behind the host's interface. -/
def runSteps (n : Nat) (s : State) : Out := Host.Core.run Sys2Proof.core n s

/-- A safe run: no step of it stops, whatever its length. -/
def SafeFrom (s : State) : Prop := ∀ n, ∃ t, runSteps n s = .next t

/-! ### The stores of a sequence of transactions (20_memory R65) -/

/-- A dispatched Store: the device it reaches, the address and the word. -/
structure StoreEvent where
  device : Word
  addr : Word
  value : Word
deriving DecidableEq, Repr

/-- The store that an instruction, dispatched, makes (43_device_access R152). -/
def instrStoreEvent (i : Instr) (s : State) : Option StoreEvent :=
  match i with
  | .invalid _ _ _ => none
  | .nop _ _ _ => none
  | .halt _ _ _ => none
  | .set _ _ _ => none
  | .selram _ _ _ => none
  | .load _ _ _ => none
  | .store src dst imm =>
    match s.active, addrVal dst imm s with
    | some id, some a => some ⟨id, a, srcVal src imm s⟩
    | some _, none => none
    | none, _ => none
  | .add _ _ _ => none

/-- The store that a transaction makes: none if it is no `execute` or the instruction is skipped. -/
def Txn.storeEvent (t : Txn) (s : State) : Option StoreEvent :=
  match t with
  | .execute w => if s.skip then none else instrStoreEvent (decode w) s
  | .configure _ => none
  | .writePc _ => none

/-- The stores of a sequence of transactions, in transaction order. -/
def storeEvents : List Txn → State → List StoreEvent
  | [], _ => []
  | t :: ts, s =>
    match transact t s with
    | .next u => (t.storeEvent s).toList ++ storeEvents ts u
    | .fault _ => []
    | .refused _ => []

/-- What a store puts in byte `a` of device `id`, if it reaches that byte. -/
def StoreEvent.byteAt (e : StoreEvent) (id a : Word) : Option Byte :=
  if e.device = id ∧ a = align e.addr then some (e.value.extractLsb' 8 8)
  else if e.device = id ∧ a = align e.addr + 1 then some (e.value.extractLsb' 0 8)
  else none

/-- What the latest of a list of stores that reaches byte `a` of device `id` puts there. -/
def lastStored : List StoreEvent → Word → Word → Option Byte
  | [], _, _ => none
  | e :: es, id, a =>
    match lastStored es id a with
    | some b => some b
    | none => e.byteAt id a

end Sys2Proof.Machine
end

