-- ==== Sys2Proof/Certificates/Slice0/Obligations.lean ====
section
/-! DEFINITION. The statements for the provers. A docstring names the rule or section of spec/ a statement formalises;
where a clause is a decision of the spec (D<n> of spec/92_eei_decisions.md), an inference the spec marks as derived, or
the model's own choice, the docstring says so and names the log entry. -/

open Sys2Proof Sys2Proof.Machine

/-! ### Encoding and decoding -/

/-- 30_encoding R92 (an inference the spec marks derived) over the container word of decision D3 (log 12): decoding the
encoding of any instruction, legal or not, gives it back, with every field at every value. -/
def Obligations.DecodingAnEncodedInstructionGivesItBack : Prop :=
  ∀ i : Instr, decode (encode i) = i

/-- 30_encoding R82 (decision D3, log 12): an instruction word laid out as bytes is read back, with the bytes after it. -/
def Obligations.ASerializedWordIsReadBackWithItsRest : Prop :=
  ∀ (w : InstrWord) (rest : List Byte), decodeBytes (serialize w ++ rest) = .ok (decode w, rest)

/-- 30_encoding R92 (an inference the spec marks derived; D3, log 12): a word is the encoding of what it decodes to
exactly when its opcode is at most 7 and its selectors are at most 5. -/
def Obligations.AWordIsReencodedExactlyWhenNoCodeCollapses : Prop :=
  ∀ w : InstrWord, encode (decode w) = w ↔
    (opcodeRaw w).toNat ≤ 7 ∧ (srcNibble (operandByte w)).toNat ≤ 5 ∧ (dstNibble (operandByte w)).toNat ≤ 5

/-- 30_encoding R83: the decoded opcode is the table's row of `opcode_raw`, 8 to 255 are `Invalid`, and the operand
byte and the immediate play no part in it. -/
def Obligations.TheOpcodeByteAloneSelectsTheOpcode : Prop :=
  (∀ w : InstrWord,
    ((opcodeRaw w).toNat = 0 → (decode w).opcode = .invalid) ∧
    ((opcodeRaw w).toNat = 1 → (decode w).opcode = .noOp) ∧
    ((opcodeRaw w).toNat = 2 → (decode w).opcode = .halt) ∧
    ((opcodeRaw w).toNat = 3 → (decode w).opcode = .set) ∧
    ((opcodeRaw w).toNat = 4 → (decode w).opcode = .selectRamDevice) ∧
    ((opcodeRaw w).toNat = 5 → (decode w).opcode = .load) ∧
    ((opcodeRaw w).toNat = 6 → (decode w).opcode = .store) ∧
    ((opcodeRaw w).toNat = 7 → (decode w).opcode = .add) ∧
    (8 ≤ (opcodeRaw w).toNat → (decode w).opcode = .invalid)) ∧
  (∀ w w' : InstrWord, opcodeRaw w = opcodeRaw w' → (decode w).opcode = (decode w').opcode)

/-- 30_encoding R84: each selector nibble decodes alone, the same way in both positions, 6 to 15 to `None`. -/
def Obligations.EachSelectorNibbleDecodesByItsRow : Prop :=
  (∀ n : Nibble,
    (n.toNat = 0 → Sel.ofNibble n = .none) ∧ (n.toNat = 1 → Sel.ofNibble n = .reg .r0) ∧
    (n.toNat = 2 → Sel.ofNibble n = .reg .r1) ∧ (n.toNat = 3 → Sel.ofNibble n = .reg .r2) ∧
    (n.toNat = 4 → Sel.ofNibble n = .reg .r3) ∧ (n.toNat = 5 → Sel.ofNibble n = .imm) ∧
    (6 ≤ n.toNat → Sel.ofNibble n = .none)) ∧
  (∀ w : InstrWord, (decode w).src = Sel.ofNibble (srcNibble (operandByte w)) ∧
    (decode w).dst = Sel.ofNibble (dstNibble (operandByte w)))

/-- 30_encoding R85: the operand byte packs the source selector in its low nibble and the destination selector in its
high nibble, with the rule's example `0x15`. -/
def Obligations.TheOperandBytePacksBothSelectors : Prop :=
  (∀ b : Byte, srcNibble b = b.extractLsb' 0 4 ∧ dstNibble b = b.extractLsb' 4 4 ∧
    b.toNat = (dstNibble b).toNat * 16 + (srcNibble b).toNat) ∧
  Sel.ofNibble (srcNibble 0x15) = .imm ∧ Sel.ofNibble (dstNibble 0x15) = .reg .r0

/-- Words written out from 30_encoding R81 and R93 (decision D3, log 12): one for each mnemonic, and the boundary words
of 95_test_vectors section 2.1. -/
def Obligations.WrittenOutWordsDecodeToTheirInstructions : Prop :=
  decode 0x00000000 = .invalid .none .none 0 ∧ decode 0x01000000 = .nop .none .none 0 ∧
  decode 0x02000000 = .halt .none .none 0 ∧ decode 0x03150064 = .set .imm (.reg .r0) 100 ∧
  decode 0x04050007 = .selram .imm .none 7 ∧ decode 0x0535000A = .load .imm (.reg .r2) 10 ∧
  decode 0x06210000 = .store (.reg .r0) (.reg .r1) 0 ∧ decode 0x07440000 = .add (.reg .r3) (.reg .r3) 0 ∧
  decode 0x08000000 = .invalid .none .none 0 ∧ decode 0xFF123456 = .invalid (.reg .r1) (.reg .r0) 0x3456 ∧
  decode 0x0367FFFF = .set .none .none 0xFFFF ∧ decode 0x07F50001 = .add .imm .none 1

/-- The model's own choice (log 26), with 30_encoding R91: the byte decoder rejects exactly the strings that are
shorter than an instruction. -/
def Obligations.OnlyShortByteStringsAreRejected : Prop :=
  ∀ bs : List Byte, (∃ e, decodeBytes bs = .error e) ↔ bs.length < 4

/-- 30_encoding R86 and R89 (the latter an inference the spec marks derived): an instruction does the same with every
field that it does not read cleared. -/
def Obligations.FieldsAnInstructionDoesNotReadDoNotMatter : Prop :=
  ∀ (i : Instr) (s : State), exec (canonical i) s = exec i s

/-! ### The common step -/

/-- 40_execute_step R113: a source operand is 0, the register's current value, or the immediate. -/
def Obligations.ASourceOperandResolvesByItsSelector : Prop :=
  ∀ (imm : Word) (s : State), srcVal .none imm s = 0 ∧ (∀ r, srcVal (.reg r) imm s = s.readReg r) ∧
    srcVal .imm imm s = imm

/-- 40_execute_step R111: whatever the instruction, with the NOP-skip flag set `execute` clears the flag, returns `Ok`
with `halt_req = 0` and changes nothing else; the driver treats the slot as consumed. -/
def Obligations.ASkippedInstructionOnlyClearsTheFlag : Prop :=
  ∀ (w : InstrWord) (s : State), s.skip = true →
    (∃ t, execute w s = .next t ∧ t.skip = false ∧ reservedFlags t.flags = reservedFlags s.flags ∧
      KeepsRegs s t ∧ t.active = s.active ∧ t.registry = s.registry ∧ KeepsMemory s t ∧ KeepsDriver s t ∧
      t.draws = s.draws ∧ Returned t .ok false) ∧
    (s.outcome = none → s.pending = [] → fetch s = some w →
      ∃ t, step s = .next t ∧ t.pc = s.pc + 1 ∧ t.outcome = none ∧ t.skip = false ∧ KeepsRegs s t)

/-- 40_execute_step R112: with the flag clear, `execute` is the rule of the decoded instruction and nothing else; there
is no path for an unknown opcode. -/
def Obligations.DispatchIsTheRuleOfTheDecodedInstruction : Prop :=
  (∀ (w : InstrWord) (s : State), s.skip = false → execute w s = exec (decode w) s) ∧
  (∀ (w : InstrWord) (s : State) (r : Refusal), execute w s ≠ .refused r)

/-- 70_reset_and_hazards R207 to R209 (decision D8, log 6): when the run goes on, the prelude is done and the word at
`prog[pc]` decodes to `i`, the step is `exec i` with what the driver adds: `pc` advances after `Ok`, the run ends
`Halted` after `halt_req`, and ends `Faulted(k)` with `pc` in place after `Err(k)`; a fault is a fault of the step. -/
def Obligations.AStepRunsTheInstructionAtTheProgramCounter : Prop :=
  ∀ (s : State) (w : InstrWord) (i : Instr),
    s.outcome = none → s.pending = [] → s.prog[s.pc.toNat]? = some w → decode w = i → s.skip = false →
    (∀ t, exec i s = .next t → t.result = .ok → t.haltReq = false → step s = .next { t with pc := t.pc + 1 }) ∧
    (∀ t, exec i s = .next t → t.result = .ok → t.haltReq = true →
      step s = .next { t with pc := t.pc + 1, outcome := some .halted }) ∧
    (∀ t k, exec i s = .next t → t.result = .err k → step s = .next { t with outcome := some (.faulted k) }) ∧
    (∀ f, exec i s = .fault f → step s = .fault f)

/-! ### Control instructions -/

/-- 41_control R130: every `opcode_raw` 0 and 8 to 255 decodes to Invalid; dispatched, it returns `Err(ProgramError)`
with `halt_req = 0` and changes nothing; skipped, it returns `Ok`. -/
def Obligations.ADispatchedInvalidReturnsProgramError : Prop :=
  (∀ w : InstrWord, (opcodeRaw w).toNat = 0 ∨ 8 ≤ (opcodeRaw w).toNat →
    ∃ src dst imm, decode w = .invalid src dst imm) ∧
  (∀ (src dst : Sel) (imm : Word) (s : State), ∃ t, exec (.invalid src dst imm) s = .next t ∧
    Returned t (.err .programError) false ∧ KeepsRegs s t ∧ t.flags = s.flags ∧ t.active = s.active ∧
    t.registry = s.registry ∧ KeepsMemory s t ∧ KeepsDriver s t ∧ t.draws = s.draws) ∧
  (∀ (w : InstrWord) (s : State), (decode w).opcode = .invalid → s.skip = true →
    ∃ t, execute w s = .next t ∧ t.result = .ok)

/-- 41_control R131, its semantics: a dispatched NoOp sets `flags[0]`, keeps `flags[15:1]` and everything else, and
returns `Ok`, whatever its fields. -/
def Obligations.ADispatchedNopSetsTheSkipFlag : Prop :=
  ∀ (src dst : Sel) (imm : Word) (s : State), ∃ t, exec (.nop src dst imm) s = .next t ∧ t.skip = true ∧
    reservedFlags t.flags = reservedFlags s.flags ∧ KeepsRegs s t ∧ t.active = s.active ∧ t.registry = s.registry ∧
    KeepsMemory s t ∧ KeepsDriver s t ∧ t.draws = s.draws ∧ Returned t .ok false

/-- 41_control R131, corner case 1 (an inference the spec marks derived): after a run of NoOps from a clear flag, the
next instruction is skipped exactly when the run is odd, and the run has touched nothing but the flag. -/
def Obligations.ARunOfNopsLeavesTheFlagSetWhenItIsOdd : Prop :=
  ∀ (ws : List InstrWord) (s : State), (∀ w ∈ ws, (decode w).opcode = .noOp) → s.skip = false →
    ∃ t, runTxns (ws.map .execute) s = .next t ∧ (t.skip = true ↔ ws.length % 2 = 1) ∧
      reservedFlags t.flags = reservedFlags s.flags ∧ KeepsRegs s t ∧ t.active = s.active ∧
      t.registry = s.registry ∧ KeepsMemory s t ∧ KeepsDriver s t

/-- 41_control R132 (its `halt_req` is decision D9, log 13): a dispatched Halt returns `Ok` with `halt_req = 1` and
changes no state; a skipped one returns `halt_req = 0`. -/
def Obligations.ADispatchedHaltOnlyRaisesHaltReq : Prop :=
  (∀ (src dst : Sel) (imm : Word) (s : State), ∃ t, exec (.halt src dst imm) s = .next t ∧ Returned t .ok true ∧
    KeepsRegs s t ∧ t.flags = s.flags ∧ t.active = s.active ∧ t.registry = s.registry ∧ KeepsMemory s t ∧
    KeepsDriver s t ∧ t.draws = s.draws) ∧
  (∀ (w : InstrWord) (s : State), (decode w).opcode = .halt → s.skip = true →
    ∃ t, execute w s = .next t ∧ t.haltReq = false)

/-! ### Register instructions -/

/-- 42_register, Set, with a register destination: the destination register gets the resolved source value, all 16
bits of it, and nothing else changes. The other destinations are `ContractViolationIsTheFaultOfABadDestination`. -/
def Obligations.SetCopiesItsSourceToItsRegister : Prop :=
  ∀ (src : Sel) (j : Reg) (imm : Word) (s : State), ∃ t, exec (.set src (.reg j) imm) s = .next t ∧
    t.readReg j = srcVal src imm s ∧ KeepsRegsBut j s t ∧ t.flags = s.flags ∧ t.active = s.active ∧
    t.registry = s.registry ∧ KeepsMemory s t ∧ KeepsDriver s t ∧ t.draws = s.draws ∧ Returned t .ok false

/-- 42_register, Add, with a register destination: the destination register gets the sum of its old value and the
resolved source value modulo 65536, no flag changes, and nothing else changes. The other destinations are
`ContractViolationIsTheFaultOfABadDestination`. -/
def Obligations.AddAddsItsSourceModulo65536 : Prop :=
  ∀ (src : Sel) (j : Reg) (imm : Word) (s : State), ∃ t, exec (.add src (.reg j) imm) s = .next t ∧
    (t.readReg j).toNat = ((s.readReg j).toNat + (srcVal src imm s).toNat) % 65536 ∧ KeepsRegsBut j s t ∧
    t.flags = s.flags ∧ t.active = s.active ∧ t.registry = s.registry ∧ KeepsMemory s t ∧ KeepsDriver s t ∧
    t.draws = s.draws ∧ Returned t .ok false

/-- 40_execute_step R116, its examples of one register as source and destination: `add rJ -> rJ` doubles, and
`load rJ -> rJ` and `store rJ -> [rJ]` use the old value as the address. -/
def Obligations.AnAliasedRegisterIsReadBeforeItIsWritten : Prop :=
  (∀ (j : Reg) (imm : Word) (s : State), ∃ t, exec (.add (.reg j) (.reg j) imm) s = .next t ∧
    (t.readReg j).toNat = 2 * (s.readReg j).toNat % 65536) ∧
  (∀ (j : Reg) (imm id : Word) (d : Device) (s : State),
    s.active = some id → s.dev id = some d → d.isRam = true →
    ∃ t hi lo, exec (.load (.reg j) (.reg j) imm) s = .next t ∧ s.readByte id (align (s.readReg j)) = some hi ∧
      s.readByte id (align (s.readReg j) + 1) = some lo ∧ t.readReg j = hi ++ lo) ∧
  (∀ (j : Reg) (imm id : Word) (d : Device) (s : State),
    s.active = some id → s.dev id = some d → d.isRam = true → d.wf = true →
    ∃ t, exec (.store (.reg j) (.reg j) imm) s = .next t ∧
      t.readByte id (align (s.readReg j)) = some ((s.readReg j).extractLsb' 8 8) ∧
      t.readByte id (align (s.readReg j) + 1) = some ((s.readReg j).extractLsb' 0 8) ∧ KeepsRegs s t)

/-! ### Device instructions -/

/-- 43_device_access R150: opcode 4 is SelectRamDevice; it selects the id its source resolves to when a device with
that id is registered, fails with `DeviceDoesNotExist` and keeps `active` when not, changes nothing else, never reads
its destination, and has the effect of the configuration transaction. -/
def Obligations.SelramSelectsARegisteredIdOrFails : Prop :=
  (∀ w : InstrWord, (opcodeRaw w).toNat = 4 → ∃ src dst imm, decode w = .selram src dst imm) ∧
  (∀ (src dst : Sel) (imm : Word) (s : State), srcVal src imm s ∈ s.ids →
    ∃ t, exec (.selram src dst imm) s = .next t ∧ t.active = some (srcVal src imm s) ∧ KeepsRegs s t ∧
      t.flags = s.flags ∧ t.registry = s.registry ∧ KeepsMemory s t ∧ KeepsDriver s t ∧ t.draws = s.draws ∧
      Returned t .ok false) ∧
  (∀ (src dst : Sel) (imm : Word) (s : State), srcVal src imm s ∉ s.ids →
    ∃ t, exec (.selram src dst imm) s = .next t ∧ t.active = s.active ∧ KeepsRegs s t ∧ t.flags = s.flags ∧
      t.registry = s.registry ∧ KeepsMemory s t ∧ KeepsDriver s t ∧ t.draws = s.draws ∧
      Returned t (.err .deviceDoesNotExist) false) ∧
  (∀ (src dst dst' : Sel) (imm : Word) (s : State),
    exec (.selram src dst imm) s = exec (.selram src dst' imm) s ∧
    exec (.selram src dst imm) s = configure (.selectRamDevice (srcVal src imm s)) s)

/-- 20_memory R49: the configuration transaction `select_ram_device(id)`; the instruction has the same effect. -/
def Obligations.SelectRamDeviceSelectsOrKeepsTheSelection : Prop :=
  (∀ (id : Word) (s : State), id ∈ s.ids →
    ∃ t, configure (.selectRamDevice id) s = .next t ∧ t.active = some id ∧ KeepsRegs s t ∧ t.flags = s.flags ∧
      t.registry = s.registry ∧ KeepsMemory s t ∧ KeepsDriver s t ∧ t.result = .ok) ∧
  (∀ (id : Word) (s : State), id ∉ s.ids →
    ∃ t, configure (.selectRamDevice id) s = .next t ∧ t.active = s.active ∧ KeepsRegs s t ∧ t.flags = s.flags ∧
      t.registry = s.registry ∧ KeepsMemory s t ∧ KeepsDriver s t ∧ t.result = .err .deviceDoesNotExist) ∧
  (∀ (id : Word) (s : State), id ∈ s.ids → s.active = some id →
    ∃ t, configure (.selectRamDevice id) s = .next t ∧ t.active = s.active) ∧
  (∀ (src dst : Sel) (imm : Word) (s : State),
    exec (.selram src dst imm) s = configure (.selectRamDevice (srcVal src imm s)) s)

/-- 43_device_access, Load, from an active RAM device into a register: the register gets the two bytes at the aligned
address, high byte first, and nothing else changes. -/
def Obligations.LoadReadsTheAlignedWordBigEndian : Prop :=
  ∀ (src : Sel) (j : Reg) (imm id : Word) (d : Device) (s : State),
    s.active = some id → s.dev id = some d → d.isRam = true →
    ∃ t hi lo, exec (.load src (.reg j) imm) s = .next t ∧
      s.readByte id (align (srcVal src imm s)) = some hi ∧
      s.readByte id (align (srcVal src imm s) + 1) = some lo ∧ t.readReg j = hi ++ lo ∧ KeepsRegsBut j s t ∧
      t.flags = s.flags ∧ t.active = s.active ∧ t.registry = s.registry ∧ KeepsMemory s t ∧ KeepsDriver s t ∧
      t.draws = s.draws ∧ Returned t .ok false

/-- 43_device_access, Store, to an active RAM device in canonical form (`GoodState` gives that): the two bytes at the aligned
address, which `addrVal` gives, become the source value, high byte first; every other byte of every device, every
register and everything else is unchanged. -/
def Obligations.StoreWritesTheAlignedWordBigEndian : Prop :=
  ∀ (src dst : Sel) (imm id a : Word) (d : Device) (s : State),
    s.active = some id → s.dev id = some d → d.isRam = true → d.wf = true → addrVal dst imm s = some a →
    ∃ t, exec (.store src dst imm) s = .next t ∧
      t.readByte id (align a) = some ((srcVal src imm s).extractLsb' 8 8) ∧
      t.readByte id (align a + 1) = some ((srcVal src imm s).extractLsb' 0 8) ∧ KeepsMemoryBut id a s t ∧
      KeepsRegs s t ∧ t.flags = s.flags ∧ t.active = s.active ∧ KeepsDevices s t ∧ KeepsDriver s t ∧
      t.draws = s.draws ∧ Returned t .ok false

/-- 20_memory R60 and 95_test_vectors T7, through the instructions: after a Store to an active RAM device, a Load from
an address that aligns the same way gives the stored word. -/
def Obligations.ALoadAfterAStoreReturnsTheStoredWord : Prop :=
  ∀ (src dst src' : Sel) (j : Reg) (imm imm' id a : Word) (d : Device) (s t : State),
    s.active = some id → s.dev id = some d → d.isRam = true → d.wf = true → addrVal dst imm s = some a →
    exec (.store src dst imm) s = .next t → align (srcVal src' imm' t) = align a →
    ∃ u, exec (.load src' (.reg j) imm') t = .next u ∧ u.readReg j = srcVal src imm s

/-- 20_memory R61 and R62 for an abstract device beyond the sources (decision D14, log 9): Load writes data, and returns
`NoOutput` and failures as its error; Store succeeds on data and on `NoOutput`, and returns failures. It holds for
every value of the free answers. -/
def Obligations.AnAbstractDevicesAnswersPropagate : Prop :=
  (∀ (src : Sel) (j : Reg) (imm id : Word) (d : Device) (s : State),
    s.active = some id → s.dev id = some d → d.isRam = false →
    ∃ t, exec (.load src (.reg j) imm) s = .next t ∧
      (match Config.otherPrimary s.draws id (srcVal src imm s) with
        | .data v => t.result = .ok ∧ t.readReg j = v ∧ KeepsRegsBut j s t
        | .noOutput => t.result = .err .noOutput ∧ KeepsRegs s t
        | .fail k => t.result = .err (failureKind k) ∧ KeepsRegs s t) ∧
      t.flags = s.flags ∧ t.active = s.active ∧ t.registry = s.registry ∧ KeepsMemory s t ∧ KeepsDriver s t) ∧
  (∀ (src dst : Sel) (imm id a : Word) (d : Device) (s : State),
    s.active = some id → s.dev id = some d → d.isRam = false → addrVal dst imm s = some a →
    ∃ t, exec (.store src dst imm) s = .next t ∧
      (match Config.otherSecondary s.draws id a (srcVal src imm s) with
        | .data _ => t.result = .ok
        | .noOutput => t.result = .ok
        | .fail k => t.result = .err (failureKind k)) ∧
      KeepsRegs s t ∧ t.flags = s.flags ∧ t.active = s.active ∧ KeepsMemory s t ∧ KeepsDevices s t ∧ KeepsDriver s t)

/-! ### Errors -/

/-- 60_exceptions R173 (decisions D4 and D5, log 3): a dispatched instruction stops with the fault `ContractViolation`
exactly when it is a Set, Load or Add whose destination is no register or a Store whose destination is `None`. -/
def Obligations.ContractViolationIsTheFaultOfABadDestination : Prop :=
  ∀ (i : Instr) (s : State), exec i s = .fault .contractViolation ↔
    ((i.opcode = .set ∨ i.opcode = .load ∨ i.opcode = .add) ∧ ∀ r, i.dst ≠ .reg r) ∨
    (i.opcode = .store ∧ i.dst = .none)

/-- 60_exceptions R174 and R182 (decisions D6 and D17, log 4 and log 18): a dispatched instruction stops with the fault
`NoActiveRamDevice` exactly when it is a Load or a Store with a good destination and nothing is selected. -/
def Obligations.NoActiveRamDeviceIsTheFaultOfAnEarlyAccess : Prop :=
  ∀ (i : Instr) (s : State), exec i s = .fault .noActiveRamDevice ↔
    s.active = none ∧ ((i.opcode = .load ∧ ∃ r, i.dst = .reg r) ∨ (i.opcode = .store ∧ i.dst ≠ .none))

/-- 60_exceptions R173, last sentence, and 70_reset_and_hazards R202 (with the model's `GoodState`, log 11): in a good state,
a legal instruction completes, if a device is selected in case it is a Load or a Store. -/
def Obligations.LegalInstructionsComplete : Prop :=
  ∀ (i : Instr) (s : State), i.wellFormed = true → GoodState s →
    (i.opcode = .load ∨ i.opcode = .store → s.active ≠ none) → ∃ t, exec i s = .next t

/-- 60_exceptions R182 (the order of its points 3 and 4 is decision D17, log 18): which condition decides `execute`;
the last clause says that nothing but a device of another kind is left to fail a Load or a Store. -/
def Obligations.ErrorsAreTestedInTheOrderOfPriority : Prop :=
  ∀ (w : InstrWord) (s : State),
    (s.skip = true → execute w s = returnOk s.clearSkip) ∧
    (s.skip = false → (decode w).opcode = .invalid → execute w s = raise .programError s) ∧
    (s.skip = false → violatesContract (decode w) = true → execute w s = raise .contractViolation s) ∧
    (s.skip = false → violatesContract (decode w) = false → accessesRam (decode w) = true → s.active = none →
      execute w s = raise .noActiveRamDevice s) ∧
    (s.skip = false → (decode w).opcode = .selectRamDevice → srcVal (decode w).src (decode w).imm s ∉ s.ids →
      execute w s = raise .deviceDoesNotExist s) ∧
    (∀ t, s.skip = false → (decode w).opcode ≠ .invalid → (decode w).opcode ≠ .selectRamDevice →
      (∀ id d, s.active = some id → s.dev id = some d → d.isRam = true) → execute w s = .next t → t.result = .ok)

/-- 60_exceptions R171: `ProgramError` is the result of a dispatched Invalid and of nothing else, and leaves the state
unchanged. -/
def Obligations.ProgramErrorComesFromADispatchedInvalidOnly : Prop :=
  (∀ (w : InstrWord) (s t : State), execute w s = .next t →
    (t.result = .err .programError ↔ s.skip = false ∧ (decode w).opcode = .invalid)) ∧
  (∀ (c : CfgTxn) (s t : State), configure c s = .next t → t.result ≠ .err .programError) ∧
  (∀ (w : InstrWord) (s t : State), execute w s = .next t → t.result = .err .programError →
    t = { s with result := .err .programError, haltReq := false })

/-- 60_exceptions R172: `DeviceDoesNotExist` is the result of a dispatched SelectRamDevice and of `select_ram_device`
when no device has the id, and of nothing else; the state is unchanged, `active` in particular. -/
def Obligations.DeviceDoesNotExistComesFromAnUnregisteredId : Prop :=
  (∀ (w : InstrWord) (s t : State), execute w s = .next t →
    (t.result = .err .deviceDoesNotExist ↔
      s.skip = false ∧ (decode w).opcode = .selectRamDevice ∧
        s.dev (srcVal (decode w).src (decode w).imm s) = none)) ∧
  (∀ (c : CfgTxn) (s t : State), configure c s = .next t →
    (t.result = .err .deviceDoesNotExist ↔ ∃ id, c = .selectRamDevice id ∧ s.dev id = none)) ∧
  (∀ (x : Txn) (s t : State), (∀ v, x ≠ .writePc v) → transact x s = .next t →
    t.result = .err .deviceDoesNotExist → t = { s with result := .err .deviceDoesNotExist, haltReq := false })

/-- 60_exceptions R175: `DeviceIdExists` and `TooManyDevices` are results of `connect_device` alone, never of `execute`,
and leave the registry unchanged. -/
def Obligations.ConnectionErrorsComeFromConnectDeviceOnly : Prop :=
  (∀ (w : InstrWord) (s t : State), execute w s = .next t →
    t.result ≠ .err .deviceIdExists ∧ t.result ≠ .err .tooManyDevices) ∧
  (∀ (c : CfgTxn) (s t : State), configure c s = .next t →
    t.result = .err .deviceIdExists ∨ t.result = .err .tooManyDevices →
    (∃ d, c = .connectDevice d) ∧ t.registry = s.registry)

/-- 60_exceptions R179, its first and last sentences: an `execute` that returns an error changes nothing (but the
outputs, and the model's count of free answers, log 10), and has the NOP-skip flag clear before and after. That a
device's failure is the failure of its Load or Store is `AnAbstractDevicesAnswersPropagate`. -/
def Obligations.AFailingExecuteHasNoEffect : Prop :=
  ∀ (w : InstrWord) (s t : State) (k : ErrorKind), execute w s = .next t → t.result = .err k →
    t = { s with result := .err k, haltReq := false, draws := t.draws } ∧ s.skip = false ∧ t.skip = false

/-- 40_execute_step R118: what an `execute` never does, and which instruction alone does each of the other things. -/
def Obligations.ExecuteChangesOnlyWhatItsOpcodeMay : Prop :=
  ∀ (w : InstrWord) (s t : State), execute w s = .next t →
    t.pc = s.pc ∧ KeepsDevices s t ∧ reservedFlags t.flags = reservedFlags s.flags ∧
    (t.active ≠ s.active → s.skip = false ∧ (decode w).opcode = .selectRamDevice) ∧
    (s.skip = false → t.skip = true → (decode w).opcode = .noOp) ∧
    (s.skip = true → t.skip = false) ∧
    (¬ KeepsMemory s t → s.skip = false ∧ (decode w).opcode = .store) ∧
    (¬ KeepsRegs s t → s.skip = false ∧
      ((decode w).opcode = .set ∨ (decode w).opcode = .load ∨ (decode w).opcode = .add)) ∧
    (t.haltReq = true → s.skip = false ∧ (decode w).opcode = .halt)

/-! ### Who reads and who writes which state -/

/-- 10_state, section 1: a register changes only as the destination of a dispatched Set, Load or Add; configuration
transactions and the driver's write of `pc` change none. -/
def Obligations.ARegisterIsWrittenOnlyAsADestination : Prop :=
  (∀ (w : InstrWord) (s t : State) (r : Reg), execute w s = .next t → t.readReg r ≠ s.readReg r →
    s.skip = false ∧ writtenReg (decode w) = some r) ∧
  (∀ (c : CfgTxn) (s t : State), configure c s = .next t → KeepsRegs s t) ∧
  (∀ (v : Word) (s t : State), transact (.writePc v) s = .next t → KeepsRegs s t)

/-- 10_state, section 1: an instruction does not depend on a register that it neither reads nor writes, and depends on
one that it only writes at most by leaving it as it was. -/
def Obligations.ARegisterNotReadDoesNotInfluenceAnInstruction : Prop :=
  ∀ (i : Instr) (s : State) (r : Reg) (v : Word), readsReg i r = false →
    (writtenReg i ≠ some r → exec i (s.writeReg r v) = mapNext (fun t => t.writeReg r v) (exec i s)) ∧
    (∀ z, mapNext (fun t => t.writeReg r z) (exec i (s.writeReg r v)) =
      mapNext (fun t => t.writeReg r z) (exec i s))

/-- 10_state R23: no `execute` reads or writes `pc`, whether the instruction is dispatched, skipped or fails; the
driver's write sets it. -/
def Obligations.ExecuteNeitherReadsNorWritesThePc : Prop :=
  (∀ (w : InstrWord) (s : State) (p : Word),
    execute w { s with pc := p } = mapNext (fun t => { t with pc := p }) (execute w s)) ∧
  (∀ (w : InstrWord) (s t : State), execute w s = .next t → t.pc = s.pc) ∧
  (∀ (v : Word) (s : State), transact (.writePc v) s = .next { s with pc := v })

/-- 10_state, section 3: the NOP-skip flag becomes 1 only by a dispatched NoOp and 0 by the next `execute`, whatever it
carries (R26); configuration transactions neither read nor change `flags` (R26; the reading of N25, log 20); a failing
instruction leaves it clear; no dispatched instruction reads it, nor the reserved rest of `flags` (R25 with decision
D15, log 17). -/
def Obligations.TheSkipFlagLivesForOneExecute : Prop :=
  (∀ (w : InstrWord) (s t : State), execute w s = .next t →
    (t.skip = true ↔ s.skip = false ∧ (decode w).opcode = .noOp)) ∧
  (∀ (w w' : InstrWord) (s t u : State), execute w s = .next t → t.skip = true → execute w' t = .next u →
    u.skip = false) ∧
  (∀ (c : CfgTxn) (s : State) (f : Word),
    configure c { s with flags := f } = mapNext (fun t => { t with flags := f }) (configure c s)) ∧
  (∀ (c : CfgTxn) (s t : State), configure c s = .next t → t.flags = s.flags) ∧
  (∀ (w : InstrWord) (s t : State) (k : ErrorKind), execute w s = .next t → t.result = .err k →
    s.skip = false ∧ t.flags = s.flags) ∧
  (∀ (i : Instr) (s : State) (f g : Word),
    mapNext (fun t => { t with flags := g }) (exec i { s with flags := f }) =
      mapNext (fun t => { t with flags := g }) (exec i s))

/-- 20_memory, sections 5 and 6 (R64, R68): an instruction neither reads nor changes a device that is not the active
one, except that SelectRamDevice finds its id. -/
def Obligations.AnInactiveDeviceDoesNotInfluenceAnInstruction : Prop :=
  ∀ (i : Instr) (s : State) (d : Device), s.active ≠ some d.id → d.id ∈ s.ids →
    exec i (s.putDevice d) = mapNext (fun t => t.putDevice d) (exec i s)

/-! ### Devices, memory and the registry -/

/-- 20_memory, section 3 (R53, whose last clause is an inference the spec marks derived): `Align` clears bit 0, that is
subtracts `a mod 2`, and the word it names does not wrap. -/
def Obligations.AlignRoundsDownToAnEvenAddress : Prop :=
  ∀ a : Word, (align a).toNat = a.toNat - a.toNat % 2 ∧ (align a).getLsbD 0 = false ∧
    (align a).toNat + 1 ≤ 0xFFFF ∧ (align a + 1).toNat = (align a).toNat + 1 ∧ align (align a) = align a

/-- 20_memory R58: the primary action of a RAM device always answers the two bytes at the aligned address, big-endian;
it has no effect, so a Load changes no byte. -/
def Obligations.ARamReadAnswersTheAlignedWord : Prop :=
  (∀ (d : Device) (m : Memory) (n : Nat) (a : Word), d.kind = .ram m →
    ∃ v, d.primary n a = .data v ∧
      v.toNat = (m.readByte (align a).toNat).toNat * 256 + (m.readByte ((align a).toNat + 1)).toNat) ∧
  (∀ (src dst : Sel) (imm : Word) (s t : State), exec (.load src dst imm) s = .next t → t.registry = s.registry)

/-- 20_memory R59: the secondary action of a RAM device always answers `NoOutput` and writes exactly the two bytes at
the aligned address, big-endian. The premise is the canonical form, which `GoodState` gives. -/
def Obligations.ARamWriteStoresTheAlignedWord : Prop :=
  ∀ (d : Device) (m : Memory) (n : Nat) (a v : Word), d.kind = .ram m → m.wf = true →
    ∃ m', d.secondary n a v = (.noOutput, { d with kind := .ram m' }) ∧ m'.wf = true ∧
      m'.readByte (align a).toNat = v.extractLsb' 8 8 ∧ m'.readByte ((align a).toNat + 1) = v.extractLsb' 0 8 ∧
      ∀ b, b ≠ (align a).toNat → b ≠ (align a).toNat + 1 → m'.readByte b = m.readByte b

/-- 20_memory R60, the four laws (inferences the spec marks derived): a read after a write to the same word; a read
after a write to another word; odd and even addresses of one word; and repeated reads: a Load from a RAM device leaves
every byte as it was, and a second Load from the same word, into any register, gives the same value. -/
def Obligations.TheRamDeviceObeysItsLaws : Prop :=
  (∀ (m : Memory) (a b v : Word), m.wf = true →
    (align b = align a → (m.writeWord a v).readWord b = v) ∧
    (align b ≠ align a → (m.writeWord a v).readWord b = m.readWord b) ∧
    (a.getLsbD 0 = true → m.readWord a = m.readWord (a - 1)) ∧
    (a.getLsbD 0 = false → m.readWord a = m.readWord (a + 1))) ∧
  (∀ (src src' : Sel) (j j' : Reg) (imm imm' id : Word) (d : Device) (s t : State),
    s.active = some id → s.dev id = some d → d.isRam = true → exec (.load src (.reg j) imm) s = .next t →
    KeepsMemory s t ∧
    (align (srcVal src' imm' t) = align (srcVal src imm s) →
      ∃ u, exec (.load src' (.reg j') imm') t = .next u ∧ u.readReg j' = t.readReg j ∧ KeepsMemory t u))

/-- The model's own form of a backing array (log 2): two arrays in canonical form with the same bytes are equal, so that
equal memories are equal data. -/
def Obligations.MemoriesWithTheSameBytesAreEqual : Prop :=
  ∀ m m' : Memory, m.wf = true → m'.wf = true → (∀ a, a < Config.ramBytes → m.readByte a = m'.readByte a) → m = m'

/-- 20_memory R48: `dev(id)` is the element with that id, or nothing when there is none; since ids are unique, the
order of the scan cannot change it. -/
def Obligations.TheLookupFindsTheDeviceWithTheId : Prop :=
  (∀ (s : State) (id : Word) (d : Device), s.dev id = some d → d ∈ s.registry ∧ d.id = id) ∧
  (∀ (s : State) (id : Word), s.dev id = none ↔ ∀ d ∈ s.registry, d.id ≠ id) ∧
  (∀ (s : State) (ds : List Device) (id : Word), s.ids.Nodup → ds.Perm s.registry → findDevice ds id = s.dev id)

/-- 20_memory, section 2 (R47; the order of the tests is decision D12, log 15): `connect_device` appends the device,
or fails and leaves the registry as it was; it changes nothing else. The bound is the parameter `MAX_DEVICES` (log 29). -/
def Obligations.ConnectDeviceAppendsOrFails : Prop :=
  ∀ (d : Device) (s : State), ∃ t, configure (.connectDevice d) s = .next t ∧
    (s.registry.length + 1 > s.params.maxDevices → t.result = .err .tooManyDevices ∧ t.registry = s.registry) ∧
    (s.registry.length + 1 ≤ s.params.maxDevices → d.id ∈ s.ids →
      t.result = .err .deviceIdExists ∧ t.registry = s.registry) ∧
    (s.registry.length + 1 ≤ s.params.maxDevices → d.id ∉ s.ids →
      t.result = .ok ∧ t.registry = s.registry ++ [d] ∧ (∀ id, id ≠ d.id → t.dev id = s.dev id) ∧ t.dev d.id = some d) ∧
    KeepsRegs s t ∧ t.flags = s.flags ∧ t.active = s.active ∧ KeepsDriver s t ∧ t.draws = s.draws

/-- 20_memory, section 2, corner cases of R47 (inferences the spec marks derived), for a bound that is not below the
default 65536 of `MAX_DEVICES` (log 29): `TooManyDevices` is returned only when every id is taken, so that the other
test would fail as well. -/
def Obligations.TooManyDevicesOnlyWhenEveryIdIsTaken : Prop :=
  ∀ (d : Device) (s t : State), GoodState s → 65536 ≤ s.params.maxDevices → configure (.connectDevice d) s = .next t →
    t.result = .err .tooManyDevices → ∀ id, id ∈ s.ids

/-! ### Invariants and runs -/

/-- Every step keeps the invariant: unique ids and at most `MAX_DEVICES` devices (10_state R29), a registered selection
(20_memory R50), canonical memories (log 2), the reserved flag bits (10_state R27), the size of the program
(70_reset_and_hazards R206). -/
def Obligations.EveryStepKeepsTheInvariant : Prop :=
  ∀ s t : State, GoodState s → step s = .next t → GoodState t

/-- The state after reset meets the invariant, whatever the parameters are (00_scope R5, log 29). -/
def Obligations.TheResetStateMeetsTheInvariant : Prop :=
  GoodState State.reset ∧ ∀ p : Params, GoodState (.resetWith p)

/-- Every transaction of any driver keeps the invariant, not only those of the reference driver (10_state R31 to R33);
a device it connects is in canonical form (log 28). -/
def Obligations.EveryTransactionKeepsTheInvariant : Prop :=
  ∀ (x : Txn) (s t : State), GoodState s → x.wf = true → transact x s = .next t → GoodState t

/-- 10_state, section 4 (R28, R29) and 20_memory R50, over any sequence of transactions (inferences the spec marks
derived): devices are only ever appended, and a selection is never undone. -/
def Obligations.DevicesAreOnlyAppendedAndSelectionsNeverUndone : Prop :=
  ∀ (xs : List Txn) (s t : State), runTxns xs s = .next t →
    (∃ new, t.ids = s.ids ++ new) ∧ (s.active ≠ none → t.active ≠ none)

/-- 20_memory, section 6 (R65): after any sequence of transactions, each byte of each RAM device holds what the latest
Store to that byte of that device put there, or, when there is none, what it held before. -/
def Obligations.EveryByteHoldsItsLatestStore : Prop :=
  ∀ (xs : List Txn) (s t : State), GoodState s → (∀ x ∈ xs, x.wf = true) → runTxns xs s = .next t →
    ∀ (id a : Word) (b : Byte), s.readByte id a = some b →
      t.readByte id a = some ((lastStored (storeEvents xs s) id a).getD b)

/-- 60_exceptions R173 and R174 (decisions D4, D5, D6), with the model's own fault ruled out (20_memory R50, log 11): in
a good state a step stops only with the two faults of the spec, and no step is ever refused. -/
def Obligations.AGoodStateStopsOnlyWithTheTwoFaultsOfTheSpec : Prop :=
  (∀ (s : State) (f : Fault), GoodState s → step s = .fault f → f = .contractViolation ∨ f = .noActiveRamDevice) ∧
  (∀ (s : State) (r : Refusal), step s ≠ .refused r)

/-- 60_exceptions R173 and R174 and 70_reset_and_hazards R202, over whole runs of the reference driver (decision D8,
log 6): from a good state with a device selected and the prelude done, a program of legal instructions never faults. -/
def Obligations.ALegalProgramNeverFaultsOnceADeviceIsSelected : Prop :=
  ∀ s : State, GoodState s → s.pending = [] → s.active ≠ none → s.legalProgram → SafeFrom s

/-! ### The reference driver -/

/-- 70_reset_and_hazards R207 and R209 (decision D8, log 6): the prelude comes first and an `Err(k)` of it ends the run
`Faulted(k)`; when `pc >= N` the run ends `RanOffEnd`; a run that has ended stays as it is (the model's choice, log 7). -/
def Obligations.TheReferenceDriverStartsAndEndsARun : Prop :=
  (∀ (s : State) (c : CfgTxn) (cs : List CfgTxn), s.outcome = none → s.pending = c :: cs →
    ∃ u, configure c { s with pending := cs } = .next u ∧
      (u.result = .ok → step s = .next u) ∧
      (∀ k, u.result = .err k → step s = .next { u with outcome := some (.faulted k) })) ∧
  (∀ s : State, s.outcome = none → s.pending = [] → s.prog.length ≤ s.pc.toNat →
    step s = .next { s with outcome := some .ranOffEnd }) ∧
  (∀ s : State, s.outcome ≠ none → step s = .next s)

/-- 70_reset_and_hazards R209 and R210 (decisions D8 and D9, log 6 and log 13): a run becomes final exactly by the
dispatch of a Halt, and `pc` is then the index of that Halt plus 1. -/
def Obligations.ARunBecomesFinalExactlyByADispatchedHalt : Prop :=
  ∀ s t : State, s.outcome = none → step s = .next t →
    (t.isFinal = true ↔ s.pending = [] ∧ ∃ w, fetch s = some w ∧ s.skip = false ∧ (decode w).opcode = .halt) ∧
    (t.isFinal = true → t.pc = s.pc + 1)

/-- 70_reset_and_hazards R206 and 20_memory R67 (decision D8, log 6): over any number of steps the program text stays
as it is, whatever is stored. -/
def Obligations.TheProgramTextNeverChanges : Prop :=
  ∀ (n : Nat) (s t : State), runSteps n s = .next t → t.prog = s.prog

/-- 10_state R36 and 70_reset_and_hazards R200, for every value of the parameters of 00_scope R5 (log 29): no device is
connected or selected after reset, the flag is clear, and the registers, `flags[15:1]` and `pc` hold their parameters; a
new RAM device holds the contents it is given. The defaults, zeros everywhere and 65536 devices, are decision D7
(log 1, log 2) and the literal of U9 (log 24). -/
def Obligations.TheResetStateIsAsTheSpecSays : Prop :=
  (∀ p : Params, (State.resetWith p).active = none ∧ (State.resetWith p).registry = [] ∧
    (State.resetWith p).skip = false ∧ (∀ r, (State.resetWith p).readReg r = p.regReset) ∧
    reservedFlags (State.resetWith p).flags = p.flagsReset ∧ (State.resetWith p).pc = p.ipReset ∧
    (State.resetWith p).params = p) ∧
  (∀ (id : Word) (init : Memory), (Device.newRam id init).id = id ∧ (Device.newRam id init).kind = .ram init) ∧
  State.reset.skip = false ∧ (∀ r, State.reset.readReg r = 0) ∧ State.reset.flags = 0 ∧ State.reset.pc = 0 ∧
  State.reset.params.maxDevices = 65536 ∧
  (∀ (id : Word) (a : Nat), ∃ m, (Device.newRam id).kind = .ram m ∧ m.readByte a = 0)

/-- 00_scope, section 4 (R5), with rows U7 and U9 of 93_implementation_defined (log 29): no transaction and no step of
the reference driver changes the parameters of a run, and no instruction can tell them. -/
def Obligations.TheParametersAreFixedAndInvisibleToInstructions : Prop :=
  (∀ (x : Txn) (s t : State), transact x s = .next t → t.params = s.params) ∧
  (∀ (n : Nat) (s t : State), runSteps n s = .next t → t.params = s.params) ∧
  (∀ (w : InstrWord) (s : State) (p : Params),
    execute w { s with params := p } = mapNext (fun t => { t with params := p }) (execute w s))
end

