-- ==== Sys2Proof/Laws/Memory.lean ====
section
/-! SUPPORT. The laws of a RAM device's backing array: every operation keeps the canonical form, a byte reads as it was
last written, a write leaves every other byte alone; and the laws of `align` (20_memory R53). -/

namespace Sys2Proof.Machine

open Sys2Proof

/-! ### The canonical form -/

theorem Memory.wfAbove_cons {lo k : Nat} {b : Byte} {m : Memory} :
    Memory.wfAbove lo ((k, b) :: m) = true ↔
      lo ≤ k ∧ k < Config.ramBytes ∧ b ≠ Config.unlistedByte ∧ Memory.wfAbove (k + 1) m = true := by
  simp [Memory.wfAbove, and_assoc]

theorem Memory.wfAbove_mono {lo lo' : Nat} (h : lo' ≤ lo) {m : Memory} (hm : Memory.wfAbove lo m = true) :
    Memory.wfAbove lo' m = true := by
  cases m with
  | nil => rfl
  | cons c m =>
    obtain ⟨hk, rest⟩ := Memory.wfAbove_cons.mp hm
    exact Memory.wfAbove_cons.mpr ⟨h.trans hk, rest⟩

theorem Memory.wfAbove_writeByte {a : Nat} (v : Byte) (ha : a < Config.ramBytes) {lo : Nat} (hlo : lo ≤ a)
    {m : Memory} (hm : Memory.wfAbove lo m = true) : Memory.wfAbove lo (m.writeByte a v) = true := by
  induction m generalizing lo with
  | nil =>
    unfold Memory.writeByte
    split
    · rfl
    · exact Memory.wfAbove_cons.mpr ⟨hlo, ha, ‹_›, rfl⟩
  | cons c m ih =>
    obtain ⟨k, b⟩ := c
    obtain ⟨h1, h2, h3, h4⟩ := Memory.wfAbove_cons.mp hm
    unfold Memory.writeByte
    split
    · rename_i hak
      split
      · exact hm
      · exact Memory.wfAbove_cons.mpr ⟨hlo, ha, ‹_›, Memory.wfAbove_cons.mpr ⟨hak, h2, h3, h4⟩⟩
    · split
      · rename_i hak
        subst hak
        split
        · exact Memory.wfAbove_mono (by omega) h4
        · exact Memory.wfAbove_cons.mpr ⟨hlo, ha, ‹_›, h4⟩
      · exact Memory.wfAbove_cons.mpr ⟨h1, h2, h3, ih (by omega) h4⟩

/-- Writing a byte keeps the canonical form. -/
theorem Memory.wf_writeByte {m : Memory} (hm : m.wf = true) {a : Nat} (v : Byte) (ha : a < Config.ramBytes) :
    (m.writeByte a v).wf = true :=
  Memory.wfAbove_writeByte v ha (Nat.zero_le a) hm

/-! ### Reading after writing -/

theorem Memory.readByte_below {lo a : Nat} (h : a < lo) {m : Memory} (hm : Memory.wfAbove lo m = true) :
    m.readByte a = Config.unlistedByte := by
  induction m generalizing lo with
  | nil => rfl
  | cons c m ih =>
    obtain ⟨k, b⟩ := c
    obtain ⟨h1, _, _, h4⟩ := Memory.wfAbove_cons.mp hm
    have hka : k ≠ a := by omega
    simp only [Memory.readByte, if_neg hka]
    exact ih (lo := k + 1) (by omega) h4

theorem Memory.readByte_writeByte_above {lo : Nat} {m : Memory} (hm : Memory.wfAbove lo m = true) (a : Nat) (v : Byte) :
    (m.writeByte a v).readByte a = v := by
  induction m generalizing lo with
  | nil =>
    unfold Memory.writeByte
    split
    · rename_i h; simp [Memory.readByte, h]
    · simp [Memory.readByte]
  | cons c m ih =>
    obtain ⟨k, b⟩ := c
    obtain ⟨h1, h2, h3, h4⟩ := Memory.wfAbove_cons.mp hm
    unfold Memory.writeByte
    split
    · rename_i hak
      split
      · rename_i hv
        rw [hv]
        exact Memory.readByte_below (lo := k) hak (Memory.wfAbove_cons.mpr ⟨le_rfl, h2, h3, h4⟩)
      · simp [Memory.readByte]
    · split
      · rename_i hak
        subst hak
        split
        · rename_i hv
          rw [hv]
          exact Memory.readByte_below (lo := a + 1) (by omega) h4
        · simp [Memory.readByte]
      · rename_i hak
        simp only [Memory.readByte, if_neg (Ne.symm hak)]
        exact ih h4

/-- A byte reads as it was last written. -/
theorem Memory.readByte_writeByte_same {m : Memory} (hm : m.wf = true) (a : Nat) (v : Byte) :
    (m.writeByte a v).readByte a = v :=
  Memory.readByte_writeByte_above hm a v

/-- Writing a byte leaves every other byte alone, in any list. -/
theorem Memory.readByte_writeByte_other (m : Memory) {a c : Nat} (v : Byte) (h : c ≠ a) :
    (m.writeByte a v).readByte c = m.readByte c := by
  induction m with
  | nil =>
    unfold Memory.writeByte
    split
    · rfl
    · simp [Memory.readByte, Ne.symm h]
  | cons e m ih =>
    obtain ⟨k, b⟩ := e
    unfold Memory.writeByte
    split
    · split
      · rfl
      · simp [Memory.readByte, Ne.symm h]
    · split
      · rename_i hak
        subst hak
        split <;> simp [Memory.readByte, Ne.symm h]
      · simp only [Memory.readByte, ih]

/-! ### Alignment (20_memory R53) -/

theorem align_toNat (a : Word) : (align a).toNat = 2 * (a.toNat / 2) := by
  have := a.isLt
  simp only [align, BitVec.toNat_append, BitVec.extractLsb'_toNat, Nat.shiftRight_eq_div_pow, Nat.shiftLeft_eq]
  simp
  omega

theorem align_lt (a : Word) : (align a).toNat + 1 < Config.ramBytes := by
  have := a.isLt
  rw [align_toNat, Config.ramBytes]
  omega

/-- Writing a word keeps the canonical form (20_memory R59). -/
theorem Memory.wf_writeWord {m : Memory} (hm : m.wf = true) (a v : Word) : (m.writeWord a v).wf = true :=
  Memory.wf_writeByte (Memory.wf_writeByte hm _ (by have := align_lt a; omega)) _ (align_lt a)

/-- The high byte of a written word (20_memory R54, R59). -/
theorem Memory.readByte_writeWord_high {m : Memory} (hm : m.wf = true) (a v : Word) :
    (m.writeWord a v).readByte (align a).toNat = v.extractLsb' 8 8 := by
  rw [Memory.writeWord, Memory.readByte_writeByte_other _ _ (by omega), Memory.readByte_writeByte_same hm]

/-- The low byte of a written word (20_memory R54, R59). -/
theorem Memory.readByte_writeWord_low {m : Memory} (hm : m.wf = true) (a v : Word) :
    (m.writeWord a v).readByte ((align a).toNat + 1) = v.extractLsb' 0 8 :=
  Memory.readByte_writeByte_same (Memory.wf_writeByte hm _ (by have := align_lt a; omega)) _ _

/-- A written word leaves every other byte alone (20_memory R59). -/
theorem Memory.readByte_writeWord_other (m : Memory) (a v : Word) {c : Nat}
    (h : c ≠ (align a).toNat) (h' : c ≠ (align a).toNat + 1) : (m.writeWord a v).readByte c = m.readByte c := by
  rw [Memory.writeWord, Memory.readByte_writeByte_other _ _ h', Memory.readByte_writeByte_other _ _ h]

end Sys2Proof.Machine
end

