-- ==== Sys2Proof/Laws/State.lean ====
section
/-! SUPPORT. One lemma per field per update of the state, each true by `rfl`, so that no later proof unfolds a record
update; the laws of the register file and of the flags word. -/

namespace Sys2Proof.Machine

open Sys2Proof

variable (s : State)

/-! ### Fields after the register write -/

@[simp] theorem State.writeReg_regs (r : Reg) (v : Word) : (s.writeReg r v).regs = s.regs.write r v := rfl
@[simp] theorem State.writeReg_flags (r : Reg) (v : Word) : (s.writeReg r v).flags = s.flags := rfl
@[simp] theorem State.writeReg_pc (r : Reg) (v : Word) : (s.writeReg r v).pc = s.pc := rfl
@[simp] theorem State.writeReg_active (r : Reg) (v : Word) : (s.writeReg r v).active = s.active := rfl
@[simp] theorem State.writeReg_registry (r : Reg) (v : Word) : (s.writeReg r v).registry = s.registry := rfl
@[simp] theorem State.writeReg_prog (r : Reg) (v : Word) : (s.writeReg r v).prog = s.prog := rfl
@[simp] theorem State.writeReg_pending (r : Reg) (v : Word) : (s.writeReg r v).pending = s.pending := rfl
@[simp] theorem State.writeReg_outcome (r : Reg) (v : Word) : (s.writeReg r v).outcome = s.outcome := rfl
@[simp] theorem State.writeReg_result (r : Reg) (v : Word) : (s.writeReg r v).result = s.result := rfl
@[simp] theorem State.writeReg_haltReq (r : Reg) (v : Word) : (s.writeReg r v).haltReq = s.haltReq := rfl
@[simp] theorem State.writeReg_draws (r : Reg) (v : Word) : (s.writeReg r v).draws = s.draws := rfl
@[simp] theorem State.writeReg_params (r : Reg) (v : Word) : (s.writeReg r v).params = s.params := rfl

/-! ### Fields after the NoOp's write of the flag -/

@[simp] theorem State.setSkip_regs : (s.setSkip).regs = s.regs := rfl
@[simp] theorem State.setSkip_flags : (s.setSkip).flags = withSkipSet s.flags := rfl
@[simp] theorem State.setSkip_pc : (s.setSkip).pc = s.pc := rfl
@[simp] theorem State.setSkip_active : (s.setSkip).active = s.active := rfl
@[simp] theorem State.setSkip_registry : (s.setSkip).registry = s.registry := rfl
@[simp] theorem State.setSkip_prog : (s.setSkip).prog = s.prog := rfl
@[simp] theorem State.setSkip_pending : (s.setSkip).pending = s.pending := rfl
@[simp] theorem State.setSkip_outcome : (s.setSkip).outcome = s.outcome := rfl
@[simp] theorem State.setSkip_result : (s.setSkip).result = s.result := rfl
@[simp] theorem State.setSkip_haltReq : (s.setSkip).haltReq = s.haltReq := rfl
@[simp] theorem State.setSkip_draws : (s.setSkip).draws = s.draws := rfl
@[simp] theorem State.setSkip_params : (s.setSkip).params = s.params := rfl

/-! ### Fields after step 1's write of the flag -/

@[simp] theorem State.clearSkip_regs : (s.clearSkip).regs = s.regs := rfl
@[simp] theorem State.clearSkip_flags : (s.clearSkip).flags = withSkipClear s.flags := rfl
@[simp] theorem State.clearSkip_pc : (s.clearSkip).pc = s.pc := rfl
@[simp] theorem State.clearSkip_active : (s.clearSkip).active = s.active := rfl
@[simp] theorem State.clearSkip_registry : (s.clearSkip).registry = s.registry := rfl
@[simp] theorem State.clearSkip_prog : (s.clearSkip).prog = s.prog := rfl
@[simp] theorem State.clearSkip_pending : (s.clearSkip).pending = s.pending := rfl
@[simp] theorem State.clearSkip_outcome : (s.clearSkip).outcome = s.outcome := rfl
@[simp] theorem State.clearSkip_result : (s.clearSkip).result = s.result := rfl
@[simp] theorem State.clearSkip_haltReq : (s.clearSkip).haltReq = s.haltReq := rfl
@[simp] theorem State.clearSkip_draws : (s.clearSkip).draws = s.draws := rfl
@[simp] theorem State.clearSkip_params : (s.clearSkip).params = s.params := rfl

/-! ### Fields after the update of a device -/

@[simp] theorem State.putDevice_regs (d : Device) : (s.putDevice d).regs = s.regs := rfl
@[simp] theorem State.putDevice_flags (d : Device) : (s.putDevice d).flags = s.flags := rfl
@[simp] theorem State.putDevice_pc (d : Device) : (s.putDevice d).pc = s.pc := rfl
@[simp] theorem State.putDevice_active (d : Device) : (s.putDevice d).active = s.active := rfl
@[simp] theorem State.putDevice_registry (d : Device) : (s.putDevice d).registry = replaceDevice s.registry d := rfl
@[simp] theorem State.putDevice_prog (d : Device) : (s.putDevice d).prog = s.prog := rfl
@[simp] theorem State.putDevice_pending (d : Device) : (s.putDevice d).pending = s.pending := rfl
@[simp] theorem State.putDevice_outcome (d : Device) : (s.putDevice d).outcome = s.outcome := rfl
@[simp] theorem State.putDevice_result (d : Device) : (s.putDevice d).result = s.result := rfl
@[simp] theorem State.putDevice_haltReq (d : Device) : (s.putDevice d).haltReq = s.haltReq := rfl
@[simp] theorem State.putDevice_draws (d : Device) : (s.putDevice d).draws = s.draws := rfl
@[simp] theorem State.putDevice_params (d : Device) : (s.putDevice d).params = s.params := rfl

/-! ### Fields after the advance of `pc` -/

@[simp] theorem State.advance_regs : (s.advance).regs = s.regs := rfl
@[simp] theorem State.advance_flags : (s.advance).flags = s.flags := rfl
@[simp] theorem State.advance_pc : (s.advance).pc = s.pc + 1 := rfl
@[simp] theorem State.advance_active : (s.advance).active = s.active := rfl
@[simp] theorem State.advance_registry : (s.advance).registry = s.registry := rfl
@[simp] theorem State.advance_prog : (s.advance).prog = s.prog := rfl
@[simp] theorem State.advance_pending : (s.advance).pending = s.pending := rfl
@[simp] theorem State.advance_outcome : (s.advance).outcome = s.outcome := rfl
@[simp] theorem State.advance_result : (s.advance).result = s.result := rfl
@[simp] theorem State.advance_haltReq : (s.advance).haltReq = s.haltReq := rfl
@[simp] theorem State.advance_draws : (s.advance).draws = s.draws := rfl
@[simp] theorem State.advance_params : (s.advance).params = s.params := rfl

/-! ### Fields after the end of a run -/

@[simp] theorem State.finish_regs (o : RunOutcome) : (s.finish o).regs = s.regs := rfl
@[simp] theorem State.finish_flags (o : RunOutcome) : (s.finish o).flags = s.flags := rfl
@[simp] theorem State.finish_pc (o : RunOutcome) : (s.finish o).pc = s.pc := rfl
@[simp] theorem State.finish_active (o : RunOutcome) : (s.finish o).active = s.active := rfl
@[simp] theorem State.finish_registry (o : RunOutcome) : (s.finish o).registry = s.registry := rfl
@[simp] theorem State.finish_prog (o : RunOutcome) : (s.finish o).prog = s.prog := rfl
@[simp] theorem State.finish_pending (o : RunOutcome) : (s.finish o).pending = s.pending := rfl
@[simp] theorem State.finish_outcome (o : RunOutcome) : (s.finish o).outcome = some o := rfl
@[simp] theorem State.finish_result (o : RunOutcome) : (s.finish o).result = s.result := rfl
@[simp] theorem State.finish_haltReq (o : RunOutcome) : (s.finish o).haltReq = s.haltReq := rfl
@[simp] theorem State.finish_draws (o : RunOutcome) : (s.finish o).draws = s.draws := rfl
@[simp] theorem State.finish_params (o : RunOutcome) : (s.finish o).params = s.params := rfl

/-! ### Fields after the count of drawn answers -/

@[simp] theorem State.countDraw_regs (d : Device) : (s.countDraw d).regs = s.regs := by
  unfold State.countDraw; split <;> rfl
@[simp] theorem State.countDraw_flags (d : Device) : (s.countDraw d).flags = s.flags := by
  unfold State.countDraw; split <;> rfl
@[simp] theorem State.countDraw_pc (d : Device) : (s.countDraw d).pc = s.pc := by
  unfold State.countDraw; split <;> rfl
@[simp] theorem State.countDraw_active (d : Device) : (s.countDraw d).active = s.active := by
  unfold State.countDraw; split <;> rfl
@[simp] theorem State.countDraw_registry (d : Device) : (s.countDraw d).registry = s.registry := by
  unfold State.countDraw; split <;> rfl
@[simp] theorem State.countDraw_prog (d : Device) : (s.countDraw d).prog = s.prog := by
  unfold State.countDraw; split <;> rfl
@[simp] theorem State.countDraw_pending (d : Device) : (s.countDraw d).pending = s.pending := by
  unfold State.countDraw; split <;> rfl
@[simp] theorem State.countDraw_outcome (d : Device) : (s.countDraw d).outcome = s.outcome := by
  unfold State.countDraw; split <;> rfl
@[simp] theorem State.countDraw_result (d : Device) : (s.countDraw d).result = s.result := by
  unfold State.countDraw; split <;> rfl
@[simp] theorem State.countDraw_haltReq (d : Device) : (s.countDraw d).haltReq = s.haltReq := by
  unfold State.countDraw; split <;> rfl
@[simp] theorem State.countDraw_params (d : Device) : (s.countDraw d).params = s.params := by
  unfold State.countDraw; split <;> rfl

@[simp] theorem State.countDraw_ram (id : Word) (m : Memory) : s.countDraw ⟨id, .ram m⟩ = s := rfl

/-! ### The register file (10_state R20 to R22) -/

@[simp] theorem RegFile.read_write_same (f : RegFile) (r : Reg) (v : Word) : (f.write r v).read r = v := by
  cases r <;> rfl

theorem RegFile.read_write_other (f : RegFile) {r q : Reg} (v : Word) (h : q ≠ r) :
    (f.write r v).read q = f.read q := by
  cases r <;> cases q <;> first | rfl | exact absurd rfl h

theorem RegFile.ext_read {f g : RegFile} (h : ∀ r, f.read r = g.read r) : f = g := by
  cases f; cases g
  have h0 := h .r0; have h1 := h .r1; have h2 := h .r2; have h3 := h .r3
  simp only [RegFile.read] at h0 h1 h2 h3
  simp only [h0, h1, h2, h3]

theorem RegFile.write_write_same (f : RegFile) (r : Reg) (v w : Word) : (f.write r v).write r w = f.write r w := by
  cases r <;> rfl

theorem RegFile.write_comm (f : RegFile) {r q : Reg} (v w : Word) (h : q ≠ r) :
    (f.write r v).write q w = (f.write q w).write r v := by
  cases r <;> cases q <;> first | rfl | exact absurd rfl h

@[simp] theorem State.readReg_writeReg_same (r : Reg) (v : Word) : (s.writeReg r v).readReg r = v :=
  RegFile.read_write_same _ _ _

theorem State.readReg_writeReg_other {r q : Reg} (v : Word) (h : q ≠ r) : (s.writeReg r v).readReg q = s.readReg q :=
  RegFile.read_write_other _ _ h

/-! ### The flags word (10_state R25, R26) -/

@[simp] theorem skipBit_withSkipSet (f : Word) : skipBit (withSkipSet f) = true := by
  simp [skipBit, withSkipSet]

@[simp] theorem skipBit_withSkipClear (f : Word) : skipBit (withSkipClear f) = false := by
  simp [skipBit, withSkipClear]

@[simp] theorem reservedFlags_withSkipSet (f : Word) : reservedFlags (withSkipSet f) = reservedFlags f := by
  apply BitVec.eq_of_getLsbD_eq
  intro i hi
  simp only [reservedFlags, withSkipSet, BitVec.getLsbD_extractLsb', BitVec.getLsbD_or, BitVec.getLsbD_one, hi]
  simp

@[simp] theorem reservedFlags_withSkipClear (f : Word) : reservedFlags (withSkipClear f) = reservedFlags f := by
  apply BitVec.eq_of_getLsbD_eq
  intro i hi
  have mask : (0xFFFE#16).getLsbD (1 + i) = true := by
    have all : ∀ k : Fin 15, (0xFFFE#16).getLsbD (1 + k.val) = true := by decide
    exact all ⟨i, hi⟩
  simp [reservedFlags, withSkipClear, hi, mask]

@[simp] theorem State.setSkip_skip : s.setSkip.skip = true := skipBit_withSkipSet _

@[simp] theorem State.clearSkip_skip : s.clearSkip.skip = false := skipBit_withSkipClear _

end Sys2Proof.Machine
end

