-- ==== Sys2Proof/Laws/Ops.lean ====
section
/-! SUPPORT. One lemma per shared operation that says once everything it can do. -/

namespace Sys2Proof.Machine

open Sys2Proof

variable {s t : State}

/-! ### The ends of a transaction -/

theorem returnOk_next : returnOk s = .next t ↔ t = { s with result := .ok, haltReq := false } := by
  simp [returnOk, eq_comm]

theorem returnHalt_next : returnHalt s = .next t ↔ t = { s with result := .ok, haltReq := true } := by
  simp [returnHalt, eq_comm]

/-- A raised error that is no fault changes nothing but the outputs (60_exceptions R178, R179). -/
theorem raise_next {k : ErrorKind} : raise k s = .next t ↔
    k ≠ .contractViolation ∧ k ≠ .noActiveRamDevice ∧ t = { s with result := .err k, haltReq := false } := by
  cases k <;> simp [raise, eq_comm]

/-- The two kinds that are faults (60_exceptions R173, R174). -/
theorem raise_fault {k : ErrorKind} {f : Fault} : raise k s = .fault f ↔
    (k = .contractViolation ∧ f = .contractViolation) ∨ (k = .noActiveRamDevice ∧ f = .noActiveRamDevice) := by
  cases k <;> simp [raise, eq_comm]

theorem raise_ne_refused {k : ErrorKind} {r : Refusal} : raise k s ≠ .refused r := by
  cases k <;> simp [raise]

/-! ### The registry (20_memory R46 to R50) -/

theorem findDevice_id {ds : List Device} {id : Word} {d : Device} (h : findDevice ds id = some d) : d.id = id := by
  induction ds with
  | nil => cases h
  | cons e es ih =>
    unfold findDevice at h
    split at h
    · cases h; assumption
    · exact ih h

theorem findDevice_mem {ds : List Device} {id : Word} {d : Device} (h : findDevice ds id = some d) : d ∈ ds := by
  induction ds with
  | nil => cases h
  | cons e es ih =>
    unfold findDevice at h
    split at h
    · cases h; exact List.mem_cons_self
    · exact List.mem_cons_of_mem _ (ih h)

theorem findDevice_none {ds : List Device} {id : Word} : findDevice ds id = none ↔ id ∉ ds.map Device.id := by
  induction ds with
  | nil => simp [findDevice]
  | cons e es ih =>
    unfold findDevice
    split
    · rename_i h; simp [h]
    · rename_i h; simp only [ih, List.map_cons, List.mem_cons, not_or, Ne.symm h, not_false_eq_true, true_and]

theorem findDevice_append {ds es : List Device} {id : Word} :
    findDevice (ds ++ es) id = (findDevice ds id).or (findDevice es id) := by
  induction ds with
  | nil => simp [findDevice]
  | cons e ds ih =>
    rw [List.cons_append]
    by_cases h : e.id = id <;> simp [findDevice, h, ih]

theorem replaceDevice_ids (ds : List Device) (d : Device) : (replaceDevice ds d).map Device.id = ds.map Device.id := by
  induction ds with
  | nil => rfl
  | cons e es ih =>
    unfold replaceDevice
    split
    · rename_i h; simp [h]
    · simp [ih]

theorem replaceDevice_length (ds : List Device) (d : Device) : (replaceDevice ds d).length = ds.length := by
  simpa using congrArg List.length (replaceDevice_ids ds d)

theorem findDevice_replace_same {ds : List Device} {d e : Device} (h : findDevice ds d.id = some e) :
    findDevice (replaceDevice ds d) d.id = some d := by
  induction ds with
  | nil => cases h
  | cons c cs ih =>
    unfold replaceDevice
    split
    · simp [findDevice]
    · rename_i hc
      simp only [findDevice, if_neg hc] at h ⊢
      exact ih h

theorem findDevice_replace_other {ds : List Device} {d : Device} {id : Word} (h : id ≠ d.id) :
    findDevice (replaceDevice ds d) id = findDevice ds id := by
  induction ds with
  | nil => rfl
  | cons c cs ih =>
    unfold replaceDevice
    split
    · rename_i hc
      simp [findDevice, hc, Ne.symm h]
    · simp only [findDevice, ih]

theorem mem_replaceDevice {ds : List Device} {d e : Device} (h : e ∈ replaceDevice ds d) : e = d ∨ e ∈ ds := by
  induction ds with
  | nil => cases h
  | cons c cs ih =>
    unfold replaceDevice at h
    split at h
    · rcases List.mem_cons.mp h with h | h
      · exact .inl h
      · exact .inr (List.mem_cons_of_mem _ h)
    · rcases List.mem_cons.mp h with h | h
      · exact .inr (h ▸ List.mem_cons_self)
      · exact (ih h).imp_right (List.mem_cons_of_mem _)

/-- Replacing a device that the lookup finds by one of the same type keeps the types. -/
theorem replaceDevice_isRam {ds : List Device} {d e : Device} (h : findDevice ds d.id = some e)
    (hk : d.isRam = e.isRam) : (replaceDevice ds d).map Device.isRam = ds.map Device.isRam := by
  induction ds with
  | nil => cases h
  | cons c cs ih =>
    unfold replaceDevice
    split
    · rename_i hc
      simp only [findDevice, if_pos hc, Option.some.injEq] at h
      simp [hk, h]
    · rename_i hc
      simp only [findDevice, if_neg hc] at h
      simp [ih h]

/-- Replacing the device that the lookup finds by itself changes nothing. -/
theorem replaceDevice_self {ds : List Device} {d : Device} (h : findDevice ds d.id = some d) :
    replaceDevice ds d = ds := by
  induction ds with
  | nil => rfl
  | cons c cs ih =>
    unfold replaceDevice
    split
    · rename_i hc
      simp only [findDevice, if_pos hc, Option.some.injEq] at h
      rw [h]
    · rename_i hc
      simp only [findDevice, if_neg hc] at h
      rw [ih h]

theorem State.mem_ids {id : Word} : id ∈ s.ids ↔ ∃ d, s.dev id = some d := by
  have none_iff := @findDevice_none s.registry id
  unfold State.ids State.dev
  cases h : findDevice s.registry id <;> simp_all

theorem State.putDevice_self {id : Word} {d : Device} (h : s.dev id = some d) : s.putDevice d = s := by
  have hid : d.id = id := findDevice_id h
  subst hid
  rw [State.putDevice, replaceDevice_self h]

/-! ### Device actions (20_memory R43, R44) -/

/-- An action keeps the id and the type of its device (20_memory R41). -/
theorem Device.secondary_header (d : Device) (n : Nat) (a v : Word) :
    (d.secondary n a v).2.id = d.id ∧ (d.secondary n a v).2.isRam = d.isRam := by
  unfold Device.secondary Device.isRam
  split <;> simp_all

/-- An action keeps the canonical form. -/
theorem Device.secondary_wf {d : Device} (h : d.wf = true) (n : Nat) (a v : Word) : (d.secondary n a v).2.wf = true := by
  unfold Device.wf at h
  unfold Device.secondary
  split at h
  · rename_i hm
    simpa only [hm, Device.wf] using Memory.wf_writeWord h a v
  · rename_i hm
    simp [hm, Device.wf]

/-! ### The memory primitives (20_memory R61, R62) -/

/-- Everything an access can come to in the instruction that makes it. -/
theorem Access.andThen_next {α : Type} {r : Access α} {f : α → State → Out} (h : r.andThen f = .next t) :
    (∃ v u, r = .done v u ∧ f v u = .next t) ∨ (∃ k u, r = .err k u ∧ raise k u = .next t) := by
  cases r with
  | done v u => exact .inl ⟨v, u, rfl, h⟩
  | err k u => exact .inr ⟨k, u, rfl, h⟩
  | stop e => cases h

/-- Everything the lookup of the active device can come to. -/
theorem activeDevice_cases (s : State) :
    (s.active = none ∧ activeDevice s = .err .noActiveRamDevice s) ∨
    (∃ id, s.active = some id ∧ s.dev id = none ∧ activeDevice s = .stop .activeNotRegistered) ∨
    (∃ id d, s.active = some id ∧ s.dev id = some d ∧ activeDevice s = .done d s) := by
  unfold activeDevice
  cases ha : s.active with
  | none => simp
  | some id => cases hd : s.dev id <;> simp [hd]

/-- `MemRead` on a device that the lookup finds (20_memory R61). -/
theorem memRead_active {id : Word} {d : Device} (ha : s.active = some id) (hd : s.dev id = some d) (a : Word) :
    memRead a s = readAnswer (d.primary s.draws a) (s.countDraw d) := by
  simp [memRead, activeDevice, ha, hd]

/-- `MemWrite` on a device that the lookup finds (20_memory R62). -/
theorem memWrite_active {id : Word} {d : Device} (ha : s.active = some id) (hd : s.dev id = some d) (a v : Word) :
    memWrite a v s =
      writeAnswer (d.secondary s.draws a v).1 ((s.putDevice (d.secondary s.draws a v).2).countDraw d) := by
  simp [memWrite, activeDevice, ha, hd]

/-- Everything the answer to a read can come to (20_memory R61). -/
theorem readAnswer_cases (r : DevAnswer) (s : State) :
    (∃ v, r = .data v ∧ readAnswer r s = .done v s) ∨
    (∃ k, k ≠ .contractViolation ∧ k ≠ .noActiveRamDevice ∧ (∀ v, r ≠ .data v) ∧ readAnswer r s = .err k s) := by
  cases r with
  | data v => exact .inl ⟨v, rfl, rfl⟩
  | noOutput => exact .inr ⟨.noOutput, by simp, by simp, by simp, rfl⟩
  | fail k => cases k <;> exact .inr ⟨_, by simp [failureKind], by simp [failureKind], by simp, rfl⟩

/-- Everything the answer to a write can come to (20_memory R62). -/
theorem writeAnswer_cases (r : DevAnswer) (s : State) :
    ((∀ k, r ≠ .fail k) ∧ writeAnswer r s = .done () s) ∨
    (∃ k, r = .fail k ∧ failureKind k ≠ .contractViolation ∧ failureKind k ≠ .noActiveRamDevice ∧
      writeAnswer r s = .err (failureKind k) s) := by
  cases r with
  | data v => exact .inl ⟨by simp, rfl⟩
  | noOutput => exact .inl ⟨by simp, rfl⟩
  | fail k => exact .inr ⟨k, rfl, by cases k <;> simp [failureKind], by cases k <;> simp [failureKind], rfl⟩

/-! ### The configuration operations (20_memory R47, R49) -/

/-- Everything `connect_device` can do. -/
theorem connectDevice_cases (d : Device) (s : State) :
    (s.registry.length + 1 > s.params.maxDevices ∧ connectDevice d s = raise .tooManyDevices s) ∨
    (s.registry.length + 1 ≤ s.params.maxDevices ∧ d.id ∈ s.ids ∧ connectDevice d s = raise .deviceIdExists s) ∨
    (s.registry.length + 1 ≤ s.params.maxDevices ∧ d.id ∉ s.ids ∧
      connectDevice d s = returnOk { s with registry := s.registry ++ [d] }) := by
  unfold connectDevice
  split
  · exact .inl ⟨‹_›, rfl⟩
  · rename_i hn
    have hle : s.registry.length + 1 ≤ s.params.maxDevices := by omega
    split
    · rename_i hs
      refine .inr (.inl ⟨hle, ?_, rfl⟩)
      by_contra hmem
      simp [State.dev, findDevice_none.mpr hmem] at hs
    · rename_i hs
      refine .inr (.inr ⟨hle, findDevice_none.mp ?_, rfl⟩)
      simpa [State.dev] using hs

/-- Everything `select_ram_device` can do. -/
theorem selectRamDevice_cases (id : Word) (s : State) :
    (s.dev id = none ∧ selectRamDevice id s = raise .deviceDoesNotExist s) ∨
    (∃ d, s.dev id = some d ∧ selectRamDevice id s = returnOk { s with active := some id }) := by
  unfold selectRamDevice
  cases hd : s.dev id with
  | none => exact .inl ⟨rfl, rfl⟩
  | some d => exact .inr ⟨d, rfl, rfl⟩

/-! ### Operands (40_execute_step R113 to R115) -/

theorem dstReg_some {dst : Sel} {j : Reg} : dstReg dst = some j ↔ dst = .reg j := by
  cases dst <;> simp [dstReg]

theorem dstReg_none {dst : Sel} : dstReg dst = none ↔ dst.isReg = false := by
  cases dst <;> simp [dstReg, Sel.isReg]

theorem addrVal_none {dst : Sel} {imm : Word} : addrVal dst imm s = none ↔ dst = .none := by
  cases dst <;> simp [addrVal]

end Sys2Proof.Machine
end

