-- ==== Sys2Proof/Laws/Execute.lean ====
section
/-! SUPPORT. One inversion lemma per meaning ("if it answers `next t`, then …"), the same for the transactions and for
the move of the reference driver. -/

namespace Sys2Proof.Machine

open Sys2Proof

variable {s t : State} {src dst : Sel} {imm : Word}

/-! ### The meanings -/

theorem execInvalid_next (h : execInvalid src dst imm s = .next t) :
    t = { s with result := .err .programError, haltReq := false } :=
  (raise_next.mp h).2.2

theorem execNop_next (h : execNop src dst imm s = .next t) :
    t = { s.setSkip with result := .ok, haltReq := false } :=
  returnOk_next.mp h

theorem execHalt_next (h : execHalt src dst imm s = .next t) : t = { s with result := .ok, haltReq := true } :=
  returnHalt_next.mp h

theorem execSet_next (h : execSet src dst imm s = .next t) :
    ∃ j, dst = .reg j ∧ t = { s.writeReg j (srcVal src imm s) with result := .ok, haltReq := false } := by
  unfold execSet at h
  split at h
  · simp [raise] at h
  · exact ⟨_, dstReg_some.mp ‹_›, returnOk_next.mp h⟩

theorem execAdd_next (h : execAdd src dst imm s = .next t) :
    ∃ j, dst = .reg j ∧
      t = { s.writeReg j (s.readReg j + srcVal src imm s) with result := .ok, haltReq := false } := by
  unfold execAdd at h
  split at h
  · simp [raise] at h
  · exact ⟨_, dstReg_some.mp ‹_›, returnOk_next.mp h⟩

theorem selectRamDevice_next {id : Word} (h : selectRamDevice id s = .next t) :
    (s.dev id = none ∧ t = { s with result := .err .deviceDoesNotExist, haltReq := false }) ∨
    (∃ d, s.dev id = some d ∧ t = { s with active := some id, result := .ok, haltReq := false }) := by
  rcases selectRamDevice_cases id s with ⟨hn, he⟩ | ⟨d, hd, he⟩
  · exact .inl ⟨hn, (raise_next.mp (he ▸ h)).2.2⟩
  · exact .inr ⟨d, hd, returnOk_next.mp (he ▸ h)⟩

theorem execSelram_next (h : execSelram src dst imm s = .next t) :
    (s.dev (srcVal src imm s) = none ∧ t = { s with result := .err .deviceDoesNotExist, haltReq := false }) ∨
    (∃ d, s.dev (srcVal src imm s) = some d ∧
      t = { s with active := some (srcVal src imm s), result := .ok, haltReq := false }) :=
  selectRamDevice_next h

/-- A Load that completes has an active device; it writes the data of the answer, or returns the answer's error. -/
theorem execLoad_next (h : execLoad src dst imm s = .next t) :
    ∃ j id d, dst = .reg j ∧ s.active = some id ∧ s.dev id = some d ∧
      ((∃ v, d.primary s.draws (srcVal src imm s) = .data v ∧
          t = { (s.countDraw d).writeReg j v with result := .ok, haltReq := false }) ∨
        (∃ k, (∀ v, d.primary s.draws (srcVal src imm s) ≠ .data v) ∧
          readAnswer (d.primary s.draws (srcVal src imm s)) (s.countDraw d) = .err k (s.countDraw d) ∧
          t = { s.countDraw d with result := .err k, haltReq := false })) := by
  unfold execLoad at h
  split at h
  · simp [raise] at h
  · rename_i j hj
    rcases activeDevice_cases s with ⟨_, he⟩ | ⟨_, _, _, he⟩ | ⟨id, d, ha, hd, _⟩
    · simp [memRead, he, Access.andThen, raise] at h
    · simp [memRead, he, Access.andThen] at h
    · refine ⟨j, id, d, dstReg_some.mp hj, ha, hd, ?_⟩
      rw [memRead_active ha hd] at h
      rcases readAnswer_cases (d.primary s.draws (srcVal src imm s)) (s.countDraw d) with ⟨v, hv, he⟩ | ⟨k, _, _, hv, he⟩
      · rw [he] at h
        exact .inl ⟨v, hv, returnOk_next.mp h⟩
      · rw [he] at h
        exact .inr ⟨k, hv, he, (raise_next.mp h).2.2⟩

/-- A Store that completes has an address and an active device; it makes the device's write, or returns its failure. -/
theorem execStore_next (h : execStore src dst imm s = .next t) :
    ∃ a id d, addrVal dst imm s = some a ∧ s.active = some id ∧ s.dev id = some d ∧
      ((∀ k, (d.secondary s.draws a (srcVal src imm s)).1 ≠ .fail k) ∧
          t = { (s.putDevice (d.secondary s.draws a (srcVal src imm s)).2).countDraw d with
                result := .ok, haltReq := false } ∨
        (∃ k, (d.secondary s.draws a (srcVal src imm s)).1 = .fail k ∧
          t = { (s.putDevice (d.secondary s.draws a (srcVal src imm s)).2).countDraw d with
                result := .err (failureKind k), haltReq := false })) := by
  unfold execStore at h
  split at h
  · simp [raise] at h
  · rename_i a hadr
    rcases activeDevice_cases s with ⟨_, he⟩ | ⟨_, _, _, he⟩ | ⟨id, d, ha, hd, _⟩
    · simp [memWrite, he, Access.andThen, raise] at h
    · simp [memWrite, he, Access.andThen] at h
    · refine ⟨a, id, d, hadr, ha, hd, ?_⟩
      rw [memWrite_active ha hd] at h
      rcases writeAnswer_cases (d.secondary s.draws a (srcVal src imm s)).1
        ((s.putDevice (d.secondary s.draws a (srcVal src imm s)).2).countDraw d) with ⟨hv, he⟩ | ⟨k, hv, _, _, he⟩
      · rw [he] at h
        exact .inl ⟨hv, returnOk_next.mp h⟩
      · rw [he] at h
        exact .inr ⟨k, hv, (raise_next.mp h).2.2⟩

/-- A device that fails a write is no RAM device, and is left as it was. -/
theorem Device.secondary_fail {d : Device} {n : Nat} {a v : Word} {k : DevFailure}
    (h : (d.secondary n a v).1 = .fail k) : (d.secondary n a v).2 = d ∧ d.isRam = false := by
  unfold Device.secondary Device.isRam at *
  split at h
  · cases h
  · simp

/-- A device whose read gives no data is no RAM device, and the error is one a device may report. -/
theorem Device.primary_fail {d : Device} {n : Nat} {a : Word} {k : ErrorKind} (hd : ∀ v, d.primary n a ≠ .data v)
    (h : readAnswer (d.primary n a) s = .err k t) :
    d.isRam = false ∧ (k = .noOutput ∨ k = .invalidInput ∨ k = .wrongArgumentCount) := by
  refine ⟨?_, ?_⟩
  · unfold Device.primary at hd
    unfold Device.isRam
    split <;> simp_all
  · cases hp : d.primary n a with
    | data v => exact absurd hp (hd v)
    | noOutput => simp_all [readAnswer]
    | fail e => cases e <;> simp_all [readAnswer, failureKind]

/-! ### All instructions at once -/

/-- The states a dispatched instruction can answer with. -/
inductive ExecEffect (i : Instr) (s : State) : State → Prop where
  | programError (op : i.opcode = .invalid) :
    ExecEffect i s { s with result := .err .programError, haltReq := false }
  | setSkip (op : i.opcode = .noOp) : ExecEffect i s { s.setSkip with result := .ok, haltReq := false }
  | halt (op : i.opcode = .halt) : ExecEffect i s { s with result := .ok, haltReq := true }
  | writeReg (op : i.opcode = .set ∨ i.opcode = .add) (j : Reg) (v : Word) (dst : writtenReg i = some j) :
    ExecEffect i s { s.writeReg j v with result := .ok, haltReq := false }
  | notRegistered (op : i.opcode = .selectRamDevice) (dev : s.dev (srcVal i.src i.imm s) = none) :
    ExecEffect i s { s with result := .err .deviceDoesNotExist, haltReq := false }
  | select (op : i.opcode = .selectRamDevice) (d : Device) (dev : s.dev (srcVal i.src i.imm s) = some d) :
    ExecEffect i s { s with active := some (srcVal i.src i.imm s), result := .ok, haltReq := false }
  | load (op : i.opcode = .load) (id : Word) (d : Device) (act : s.active = some id) (dev : s.dev id = some d)
      (j : Reg) (v : Word) (dst : writtenReg i = some j) :
    ExecEffect i s { (s.countDraw d).writeReg j v with result := .ok, haltReq := false }
  | deviceError (op : i.opcode = .load ∨ i.opcode = .store) (id : Word) (d : Device) (act : s.active = some id)
      (dev : s.dev id = some d) (notRam : d.isRam = false) (k : ErrorKind)
      (kind : k = .noOutput ∨ k = .invalidInput ∨ k = .wrongArgumentCount) :
    ExecEffect i s { s.countDraw d with result := .err k, haltReq := false }
  | store (op : i.opcode = .store) (id : Word) (d : Device) (act : s.active = some id) (dev : s.dev id = some d)
      (a : Word) (adr : addrVal i.dst i.imm s = some a) :
    ExecEffect i s
      { (s.putDevice (d.secondary s.draws a (srcVal i.src i.imm s)).2).countDraw d with result := .ok, haltReq := false }

/-- Everything a dispatched instruction can do when it answers. -/
theorem exec_effect {i : Instr} (h : exec i s = .next t) : ExecEffect i s t := by
  cases i with
  | invalid src dst imm => exact execInvalid_next (src := src) (dst := dst) (imm := imm) h ▸ .programError rfl
  | nop src dst imm => exact execNop_next (src := src) (dst := dst) (imm := imm) h ▸ .setSkip rfl
  | halt src dst imm => exact execHalt_next (src := src) (dst := dst) (imm := imm) h ▸ .halt rfl
  | set src dst imm =>
    obtain ⟨j, rfl, rfl⟩ := execSet_next h
    exact .writeReg (.inl rfl) j _ rfl
  | selram src dst imm =>
    rcases execSelram_next (dst := dst) h with ⟨hd, rfl⟩ | ⟨d, hd, rfl⟩
    · exact .notRegistered rfl hd
    · exact .select rfl d hd
  | load src dst imm =>
    obtain ⟨j, id, d, rfl, ha, hd, ⟨v, _, rfl⟩ | ⟨k, hv, he, rfl⟩⟩ := execLoad_next h
    · exact .load rfl id d ha hd j v rfl
    · obtain ⟨hr, hk⟩ := Device.primary_fail hv he
      exact .deviceError (.inl rfl) id d ha hd hr k hk
  | store src dst imm =>
    obtain ⟨a, id, d, hadr, ha, hd, ⟨_, rfl⟩ | ⟨k, hk, rfl⟩⟩ := execStore_next h
    · exact .store rfl id d ha hd a hadr
    · obtain ⟨hs, hr⟩ := Device.secondary_fail hk
      rw [hs, State.putDevice_self hd]
      exact .deviceError (.inr rfl) id d ha hd hr _ (by cases k <;> simp [failureKind])
  | add src dst imm =>
    obtain ⟨j, rfl, rfl⟩ := execAdd_next h
    exact .writeReg (.inr rfl) j _ rfl

/-- No instruction is without a meaning. -/
theorem exec_ne_refused {i : Instr} {r : Refusal} : exec i s ≠ .refused r := by
  have access : ∀ {α : Type} (x : Access α) (f : α → State → Out), (∀ v u, f v u ≠ .refused r) →
      x.andThen f ≠ .refused r := by
    intro α x f hf h
    cases x with
    | done v u => exact hf v u h
    | err k u => exact raise_ne_refused h
    | stop e => cases h
  intro h
  cases i with
  | invalid src dst imm => exact raise_ne_refused (k := .programError) (s := s) h
  | nop src dst imm => cases h
  | halt src dst imm => cases h
  | set src dst imm =>
    simp only [exec, execSet] at h
    split at h <;> first | exact raise_ne_refused h | cases h
  | selram src dst imm =>
    simp only [exec, execSelram, selectRamDevice] at h
    split at h <;> first | exact raise_ne_refused h | cases h
  | load src dst imm =>
    simp only [exec, execLoad] at h
    split at h
    · exact raise_ne_refused h
    · exact access _ _ (by simp [returnOk]) h
  | store src dst imm =>
    simp only [exec, execStore] at h
    split at h
    · exact raise_ne_refused h
    · exact access _ _ (by simp [returnOk]) h
  | add src dst imm =>
    simp only [exec, execAdd] at h
    split at h <;> first | exact raise_ne_refused h | cases h

/-! ### Transactions -/

/-- Step 1 and step 2 of `execute` (40_execute_step R111, R112). -/
theorem execute_skipped {w : InstrWord} (h : s.skip = true) : execute w s = returnOk s.clearSkip := if_pos h

theorem execute_dispatched {w : InstrWord} (h : s.skip = false) : execute w s = exec (decode w) s :=
  if_neg (by simp [h])

/-- Everything `execute` can do when it answers. -/
theorem execute_next {w : InstrWord} (h : execute w s = .next t) :
    (s.skip = true ∧ t = { s.clearSkip with result := .ok, haltReq := false }) ∨
    (s.skip = false ∧ exec (decode w) s = .next t) := by
  cases hs : s.skip with
  | true => exact .inl ⟨rfl, returnOk_next.mp (execute_skipped hs ▸ h)⟩
  | false => exact .inr ⟨rfl, execute_dispatched hs ▸ h⟩

/-- Everything `connect_device` can do when it answers. -/
theorem connectDevice_next {d : Device} (h : connectDevice d s = .next t) :
    (s.registry.length + 1 > s.params.maxDevices ∧
      t = { s with result := .err .tooManyDevices, haltReq := false }) ∨
    (s.registry.length + 1 ≤ s.params.maxDevices ∧ d.id ∈ s.ids ∧
      t = { s with result := .err .deviceIdExists, haltReq := false }) ∨
    (s.registry.length + 1 ≤ s.params.maxDevices ∧ d.id ∉ s.ids ∧
      t = { s with registry := s.registry ++ [d], result := .ok, haltReq := false }) := by
  rcases connectDevice_cases d s with ⟨h1, he⟩ | ⟨h1, h2, he⟩ | ⟨h1, h2, he⟩ <;> rw [he] at h
  · exact .inl ⟨h1, (raise_next.mp h).2.2⟩
  · exact .inr (.inl ⟨h1, h2, (raise_next.mp h).2.2⟩)
  · exact .inr (.inr ⟨h1, h2, returnOk_next.mp h⟩)

/-! ### The reference driver -/

theorem mapNext_next {f : State → State} {o : Out} (h : mapNext f o = .next t) : ∃ u, o = .next u ∧ t = f u := by
  cases o with
  | next u => exact ⟨u, rfl, by simpa [mapNext, eq_comm] using h⟩
  | fault e => cases h
  | refused r => cases h

/-- Everything a move of the reference driver can do when it answers (70_reset_and_hazards R207 to R209). -/
theorem driverStep_next (h : driverStep s = .next t) :
    (s.outcome ≠ none ∧ t = s) ∨
    (∃ c cs u, s.outcome = none ∧ s.pending = c :: cs ∧ configure c { s with pending := cs } = .next u ∧
      t = afterConfigure u) ∨
    (s.outcome = none ∧ s.pending = [] ∧ fetch s = none ∧ t = s.finish .ranOffEnd) ∨
    (∃ w u, s.outcome = none ∧ s.pending = [] ∧ fetch s = some w ∧ execute w s = .next u ∧ t = afterExecute u) := by
  unfold driverStep at h
  split at h
  · rename_i ho
    exact .inl ⟨by simp [ho], by simpa [eq_comm] using h⟩
  · rename_i ho
    split at h
    · rename_i c cs hp
      obtain ⟨u, hu, rfl⟩ := mapNext_next h
      exact .inr (.inl ⟨c, cs, u, ho, hp, hu, rfl⟩)
    · rename_i hp
      split at h
      · rename_i hf
        exact .inr (.inr (.inl ⟨ho, hp, hf, by simpa [eq_comm] using h⟩))
      · rename_i w hf
        obtain ⟨u, hu, rfl⟩ := mapNext_next h
        exact .inr (.inr (.inr ⟨w, u, ho, hp, hf, hu, rfl⟩))

/-- After a configuration transaction only the outcome of the run can differ. -/
theorem afterConfigure_cases (u : State) :
    (u.result = .ok ∧ afterConfigure u = u) ∨
    (∃ k, u.result = .err k ∧ afterConfigure u = u.finish (.faulted k)) := by
  unfold afterConfigure
  cases hr : u.result with
  | ok => exact .inl ⟨rfl, rfl⟩
  | err k => exact .inr ⟨k, rfl, rfl⟩

/-- After an `execute` only `pc` and the outcome of the run can differ. -/
theorem afterExecute_cases (u : State) :
    (u.result = .ok ∧ u.haltReq = false ∧ afterExecute u = u.advance) ∨
    (u.result = .ok ∧ u.haltReq = true ∧ afterExecute u = u.advance.finish .halted) ∨
    (∃ k, u.result = .err k ∧ afterExecute u = u.finish (.faulted k)) := by
  unfold afterExecute
  cases hr : u.result with
  | ok => cases hh : u.haltReq <;> simp
  | err k => exact .inr (.inr ⟨k, rfl, rfl⟩)

/-- The word a program is given is the word the next step fetches. -/
theorem placeWord_get (ws : List InstrWord) (n : Nat) (w : InstrWord) : (placeWord ws n w)[n]? = some w := by
  induction n generalizing ws with
  | zero => cases ws <;> rfl
  | succ n ih => cases ws <;> simpa [placeWord] using ih _

/-! ### Runs -/

theorem hostRun_succ (M : Host.Core) (n : Nat) (s : M.State) : M.run (n + 1) s =
    match M.step s with
    | .next t => M.run n t
    | .fault f => .fault f
    | .refused r => .refused r := rfl

/-- A run of `n + 1` steps is a step and a run of `n`. -/
theorem runSteps_succ (n : Nat) (s : State) : runSteps (n + 1) s =
    match step s with
    | .next t => runSteps n t
    | .fault f => .fault f
    | .refused r => .refused r := by
  refine (hostRun_succ core n s).trans ?_
  generalize hx : core.step s = x
  rw [show step s = x from hx]
  cases x <;> rfl

theorem runSteps_succ_of_next {n : Nat} (h : step s = .next t) : runSteps (n + 1) s = runSteps n t := by
  rw [runSteps_succ, h]

theorem runSteps_succ_next {n : Nat} {u : State} (h : runSteps (n + 1) s = .next u) :
    ∃ t, step s = .next t ∧ runSteps n t = .next u := by
  rw [runSteps_succ] at h
  split at h
  · exact ⟨_, ‹_›, h⟩
  · cases h
  · cases h

end Sys2Proof.Machine
end

