-- ==== Sys2Proof/Laws/PerInstr.lean ====
section
/-! SUPPORT. The family `OpcodeField`, one lemma per constructor of `Instr`: the encoding of an instruction carries its
opcode in the top byte, and that byte decodes to the opcode (30_encoding R81, R83). -/

namespace Sys2Proof.Laws

open Sys2Proof

/-- The opcode byte of the encoding of an instruction is its opcode's code, and decodes back to it. -/
def OpcodeField.Statement (i : Instr) : Prop :=
  opcodeRaw (encode i) = i.opcode.code ∧ Opcode.ofByte (opcodeRaw (encode i)) = i.opcode

theorem opcodeRaw_append (op : Byte) (d s : Nibble) (v : Word) : opcodeRaw (op ++ d ++ s ++ v : InstrWord) = op := by
  apply BitVec.eq_of_getLsbD_eq
  intro i hi
  have fields : BitVec.getLsbD (w := 8 + 4 + 4 + 16) (op ++ d ++ s ++ v) (24 + i) = op.getLsbD i := by
    rw [BitVec.getLsbD_append, if_neg (by omega), BitVec.getLsbD_append, if_neg (by omega), BitVec.getLsbD_append,
      if_neg (by omega)]
    congr 1
    omega
  rw [opcodeRaw, BitVec.getLsbD_extractLsb', decide_eq_true hi, Bool.true_and]
  exact fields

theorem Opcode.ofByte_code (op : Opcode) : Opcode.ofByte op.code = op := by cases op <;> rfl

theorem opcodeField (i : Instr) : OpcodeField.Statement i :=
  ⟨opcodeRaw_append _ _ _ _, by rw [encode, opcodeRaw_append, Opcode.ofByte_code]⟩

theorem OpcodeField.invalid (src dst : Sel) (imm : Word) : Statement (.invalid src dst imm) := opcodeField _

theorem OpcodeField.nop (src dst : Sel) (imm : Word) : Statement (.nop src dst imm) := opcodeField _

theorem OpcodeField.halt (src dst : Sel) (imm : Word) : Statement (.halt src dst imm) := opcodeField _

theorem OpcodeField.set (src dst : Sel) (imm : Word) : Statement (.set src dst imm) := opcodeField _

theorem OpcodeField.selram (src dst : Sel) (imm : Word) : Statement (.selram src dst imm) := opcodeField _

theorem OpcodeField.load (src dst : Sel) (imm : Word) : Statement (.load src dst imm) := opcodeField _

theorem OpcodeField.store (src dst : Sel) (imm : Word) : Statement (.store src dst imm) := opcodeField _

theorem OpcodeField.add (src dst : Sel) (imm : Word) : Statement (.add src dst imm) := opcodeField _

end Sys2Proof.Laws
end

