-- ==== Sys2Proof/Tests/Slice0.lean ====
section
/-! SUPPORT. The model's own tests: well-formedness, decoding of words written out from the spec, single transactions
with results the spec gives, and for each obligation with hypotheses a `witness_<Name>` that meets them. -/

namespace Sys2Proof.Tests

open Sys2Proof Sys2Proof.Machine

/-! ### Well-formedness (30_encoding R88): a legal term of each row, and an ill-formed one for each check -/

theorem test_wf_accepts_a_term_of_each_row :
    (Instr.nop .none .none 0).wellFormed = true ∧ (Instr.halt .none .none 0).wellFormed = true ∧
    (Instr.set .imm (.reg .r0) 1).wellFormed = true ∧ (Instr.selram (.reg .r3) .none 0).wellFormed = true ∧
    (Instr.load (.reg .r1) (.reg .r2) 0).wellFormed = true ∧ (Instr.store .imm .imm 5).wellFormed = true ∧
    (Instr.add .imm (.reg .r0) 1).wellFormed = true := by decide

theorem test_wf_refuses_invalid : (Instr.invalid .none .none 0).wellFormed = false := by decide
theorem test_wf_refuses_nop_with_source : (Instr.nop .imm .none 0).wellFormed = false := by decide
theorem test_wf_refuses_nop_with_destination : (Instr.nop .none (.reg .r0) 0).wellFormed = false := by decide
theorem test_wf_refuses_halt_with_source : (Instr.halt (.reg .r1) .none 0).wellFormed = false := by decide
theorem test_wf_refuses_halt_with_destination : (Instr.halt .none .imm 0).wellFormed = false := by decide
theorem test_wf_refuses_set_without_source : (Instr.set .none (.reg .r0) 0).wellFormed = false := by decide
theorem test_wf_refuses_set_to_immediate : (Instr.set .imm .imm 0).wellFormed = false := by decide
theorem test_wf_refuses_set_to_nothing : (Instr.set .imm .none 0).wellFormed = false := by decide
theorem test_wf_refuses_selram_without_source : (Instr.selram .none .none 0).wellFormed = false := by decide
theorem test_wf_refuses_selram_with_destination : (Instr.selram .imm (.reg .r0) 0).wellFormed = false := by decide
theorem test_wf_refuses_load_without_source : (Instr.load .none (.reg .r0) 0).wellFormed = false := by decide
theorem test_wf_refuses_load_to_immediate : (Instr.load .imm .imm 0).wellFormed = false := by decide
theorem test_wf_refuses_store_without_source : (Instr.store .none (.reg .r0) 0).wellFormed = false := by decide
theorem test_wf_refuses_store_to_nothing : (Instr.store .imm .none 0).wellFormed = false := by decide
theorem test_wf_refuses_add_without_source : (Instr.add .none (.reg .r0) 0).wellFormed = false := by decide
theorem test_wf_refuses_add_to_immediate : (Instr.add .imm .imm 0).wellFormed = false := by decide

/-! ### Decoding: words written out from 30_encoding R81 to R85, as opcode, destination nibble, source nibble, imm -/

theorem test_decode_invalid : decode (0x00#8 ++ 0#4 ++ 0#4 ++ 0#16) = .invalid .none .none 0 := by decide
theorem test_decode_nop : decode (0x01#8 ++ 0#4 ++ 0#4 ++ 0#16) = .nop .none .none 0 := by decide
theorem test_decode_halt : decode (0x02#8 ++ 0#4 ++ 0#4 ++ 0#16) = .halt .none .none 0 := by decide
theorem test_decode_set : decode (0x03#8 ++ 1#4 ++ 5#4 ++ 100#16) = .set .imm (.reg .r0) 100 := by decide
theorem test_decode_selram : decode (0x04#8 ++ 0#4 ++ 3#4 ++ 0#16) = .selram (.reg .r2) .none 0 := by decide
theorem test_decode_load : decode (0x05#8 ++ 3#4 ++ 5#4 ++ 10#16) = .load .imm (.reg .r2) 10 := by decide
theorem test_decode_store : decode (0x06#8 ++ 2#4 ++ 1#4 ++ 0#16) = .store (.reg .r0) (.reg .r1) 0 := by decide
theorem test_decode_add : decode (0x07#8 ++ 4#4 ++ 2#4 ++ 0#16) = .add (.reg .r1) (.reg .r3) 0 := by decide

/-- 30_encoding R84: the out-of-range selectors. -/
theorem test_decode_out_of_range_selectors : decode 0x07F60001 = .add .none .none 1 := by decide

/-- 30_encoding R82: the bytes of `set #100 -> r0`, most significant first. -/
theorem test_serialize_set : serialize 0x03150064 = [0x03, 0x15, 0x00, 0x64] := by decide

theorem test_table_word : decodeTableWord 32 0x03150064 = some (.set .imm (.reg .r0) 100) := by decide

theorem test_decode_short_string : decodeBytes [0x03, 0x15, 0x00] = .error .truncated := rfl

/-! ### States for the tests -/

/-- The next state of an answer. -/
def after (o : Out) : Option State :=
  match o with
  | .next s => some s
  | .fault _ => none
  | .refused _ => none

/-- The backing array of 20_memory R58's example: `mem[10] = 0x00`, `mem[11] = 0x64`. -/
def exampleMemory : Memory := [(11, 0x64)]

/-- RAM device 7 selected, RAM device 9 connected, no program. -/
def demo : State :=
  { State.reset with
    regs := ⟨10, 0x0103, 0xFFFF, 0x8000⟩
    registry := [⟨7, .ram exampleMemory⟩, ⟨9, .ram []⟩]
    active := some 7 }

/-- `demo` with the NOP-skip flag set. -/
def demoSkip : State := { demo with flags := 1 }

/-- `demo` before anything is selected. -/
def demoUnselected : State := { demo with active := none }

/-- `demo` with a program, about to run the given word. -/
def demoRun (w : InstrWord) : State := { demo with prog := [w] }

/-- An abstract device beyond the sources, selected. -/
def demoOther : State := { State.reset with registry := [⟨3, .other⟩], active := some 3 }

/-- The first `n` ids, each with a RAM device. -/
def devices (n : Nat) : List Device := (List.range n).map fun k => Device.newRam (BitVec.ofNat 16 k)

/-- A driver has connected the first `n` ids. -/
def crowded (n : Nat) : State := { State.reset with registry := devices n }

/-! ### Single transactions, with the results the spec's examples give -/

/-- 41_control R130, its example. -/
theorem test_invalid :
    (after (execute 0xFF123456 demo)).map (fun t => (t.result, t.regs, t.flags)) =
      some (.err .programError, demo.regs, 0) := by decide

theorem test_nop : (after (execute 0x01000000 demo)).map (fun t => (t.flags, t.regs)) = some (1, demo.regs) := by decide

/-- 40_execute_step R111: a second NoOp in a row is skipped. -/
theorem test_nop_skipped : (after (execute 0x01000000 demoSkip)).map (fun t => (t.flags, t.result)) = some (0, .ok) := by
  decide

theorem test_halt : (after (execute 0x02000000 demo)).map (fun t => (t.haltReq, t.regs)) = some (true, demo.regs) := by
  decide

theorem test_halt_skipped : (after (execute 0x02000000 demoSkip)).map State.haltReq = some false := by decide

/-- 42_register R140, its example `set #100 -> r0`. -/
theorem test_set : (after (execute 0x03150064 demo)).map State.regs = some ⟨0x0064, 0x0103, 0xFFFF, 0x8000⟩ := by decide

/-- 42_register R141, corner case 1: `add #1 -> r2` wraps. -/
theorem test_add_wraps :
    (after (execute 0x07350001 demo)).map (fun t => (t.regs, t.flags)) = some (⟨10, 0x0103, 0, 0x8000⟩, 0) := by decide

/-- 42_register R141, corner case 2: `add r3 -> r3` doubles. -/
theorem test_add_doubles : (after (execute 0x07440000 demo)).map State.regs = some ⟨10, 0x0103, 0xFFFF, 0⟩ := by decide

/-- 43_device_access R150: `selram #9` and `selram #8`. -/
theorem test_selram : (after (execute 0x04050009 demo)).map (fun t => (t.active, t.result)) = some (some 9, .ok) := by decide

theorem test_selram_unregistered :
    (after (execute 0x04050008 demo)).map (fun t => (t.active, t.result)) = some (some 7, .err .deviceDoesNotExist) := by
  decide

/-- 20_memory R58, its example through `load r0 -> r2` and `load #11 -> r2`. -/
theorem test_load : (after (execute 0x05310000 demo)).map State.regs = some ⟨10, 0x0103, 0x0064, 0x8000⟩ := by decide

theorem test_load_odd : (after (execute 0x0535000B demo)).map State.regs = some ⟨10, 0x0103, 0x0064, 0x8000⟩ := by decide

/-- 20_memory R59, its example through `store #0xBEEF -> [r1]`, with `x[1] = 0x0103`. -/
theorem test_store :
    (after (execute 0x0625BEEF demo)).map State.registry =
      some [⟨7, .ram [(11, 0x64), (0x0102, 0xBE), (0x0103, 0xEF)]⟩, ⟨9, .ram []⟩] := by decide

/-- Writing the value an unlisted byte reads as removes the entry: `store #0 -> [r0]`, with `x[0] = 10`. -/
theorem test_store_zero :
    (after (execute 0x06150000 demo)).map State.registry = some [⟨7, .ram []⟩, ⟨9, .ram []⟩] := by decide

/-- The fetch of a word placed for the host: from reset, `add #1 -> r0` runs first. -/
theorem test_withFetchWord :
    (after (step (State.reset.withFetchWord 32 0x07150001))).map (fun t => (t.regs, t.pc)) = some (⟨1, 0, 0, 0⟩, 1) := by
  decide

/-- Parameters other than the defaults (00_scope R5): the reset values, and a bound of one device. -/
theorem test_params :
    (State.resetWith { regReset := 7, ipReset := 2 }).regs = ⟨7, 7, 7, 7⟩ ∧
    (State.resetWith { flagsReset := 1 }).flags = 2 ∧ (State.resetWith { ipReset := 2 }).pc = 2 ∧
    (after (runTxns [.configure (.connectDevice (.newRam 1)), .configure (.connectDevice (.newRam 2))]
      (State.resetWith { maxDevices := 1 }))).map (fun t => (t.result, t.ids)) = some (.err .tooManyDevices, [1]) := by
  decide

/-! ### Witnesses: decoding -/

theorem witness_TheOpcodeByteAloneSelectsTheOpcode :
    (opcodeRaw 0x00000000).toNat = 0 ∧ (opcodeRaw 0x01000000).toNat = 1 ∧ (opcodeRaw 0x02000000).toNat = 2 ∧
    (opcodeRaw 0x03000000).toNat = 3 ∧ (opcodeRaw 0x04000000).toNat = 4 ∧ (opcodeRaw 0x05000000).toNat = 5 ∧
    (opcodeRaw 0x06000000).toNat = 6 ∧ (opcodeRaw 0x07000000).toNat = 7 ∧ 8 ≤ (opcodeRaw 0x08000000).toNat ∧
    8 ≤ (opcodeRaw 0xFFFFFFFF).toNat ∧ opcodeRaw 0x07123456 = opcodeRaw 0x07FEDCBA := by decide

theorem witness_EachSelectorNibbleDecodesByItsRow :
    (0 : Nibble).toNat = 0 ∧ (1 : Nibble).toNat = 1 ∧ (2 : Nibble).toNat = 2 ∧ (3 : Nibble).toNat = 3 ∧
    (4 : Nibble).toNat = 4 ∧ (5 : Nibble).toNat = 5 ∧ 6 ≤ (6 : Nibble).toNat ∧ 6 ≤ (15 : Nibble).toNat := by decide

/-- Both sides of the equivalence, at the boundary codes. -/
theorem witness_AWordIsReencodedExactlyWhenNoCodeCollapses :
    encode (decode 0x0755FFFF) = 0x0755FFFF ∧ encode (decode 0x0855FFFF) ≠ 0x0855FFFF ∧
    encode (decode 0x0765FFFF) ≠ 0x0765FFFF ∧ encode (decode 0x0756FFFF) ≠ 0x0756FFFF := by decide

/-- Both sides of the equivalence, at the boundary lengths. -/
theorem witness_OnlyShortByteStringsAreRejected :
    (∃ e, decodeBytes [1, 2, 3] = .error e) ∧ ¬ ∃ e, decodeBytes [1, 2, 3, 4] = .error e :=
  ⟨⟨_, rfl⟩, fun ⟨_, h⟩ => nomatch h⟩

/-! ### Witnesses: the common step -/

theorem witness_ASkippedInstructionOnlyClearsTheFlag :
    demoSkip.skip = true ∧ demoSkip.outcome = none ∧ demoSkip.pending = [] ∧
    fetch { demoSkip with prog := [0x00000000] } = some 0 := by decide

theorem witness_DispatchIsTheRuleOfTheDecodedInstruction : demo.skip = false := by decide

/-- A word for each of the four outcomes: `set`, `halt`, `invalid`, and a Set with no destination. -/
theorem witness_AStepRunsTheInstructionAtTheProgramCounter :
    (∀ w, (demoRun w).outcome = none ∧ (demoRun w).pending = [] ∧
      (demoRun w).prog[(demoRun w).pc.toNat]? = some w ∧ (demoRun w).skip = false) ∧
    (∃ t, exec (decode 0x03150064) (demoRun 0x03150064) = .next t ∧ t.result = .ok ∧ t.haltReq = false) ∧
    (∃ t, exec (decode 0x02000000) (demoRun 0x02000000) = .next t ∧ t.result = .ok ∧ t.haltReq = true) ∧
    (∃ t, exec (decode 0x00000000) (demoRun 0x00000000) = .next t ∧ t.result = .err .programError) ∧
    exec (decode 0x03050064) (demoRun 0x03050064) = .fault .contractViolation :=
  ⟨fun _ => ⟨rfl, rfl, rfl, show demo.skip = false by decide⟩, ⟨_, rfl, rfl, rfl⟩, ⟨_, rfl, rfl, rfl⟩, ⟨_, rfl, rfl⟩, rfl⟩

/-! ### Witnesses: control instructions -/

theorem witness_ADispatchedInvalidReturnsProgramError :
    (opcodeRaw 0x00000000).toNat = 0 ∧ 8 ≤ (opcodeRaw 0x08000000).toNat ∧ 8 ≤ (opcodeRaw 0xFF000000).toNat ∧
    (decode 0xFF123456).opcode = .invalid ∧ demoSkip.skip = true := by decide

theorem witness_ARunOfNopsLeavesTheFlagSetWhenItIsOdd :
    (∀ w ∈ [0x01000000#32, 0x01FFFFFF#32, 0x01000000#32], (decode w).opcode = .noOp) ∧ demo.skip = false :=
  ⟨by rw [← List.all_iff_forall_prop]; decide, by decide⟩

theorem witness_ADispatchedHaltOnlyRaisesHaltReq : (decode 0x02000000).opcode = .halt ∧ demoSkip.skip = true := by decide

/-! ### Witnesses: device instructions -/

theorem witness_AnAliasedRegisterIsReadBeforeItIsWritten :
    demo.active = some 7 ∧ demo.dev 7 = some ⟨7, .ram exampleMemory⟩ ∧
    (Device.mk 7 (.ram exampleMemory)).isRam = true ∧ (Device.mk 7 (.ram exampleMemory)).wf = true := by decide

theorem witness_SelramSelectsARegisteredIdOrFails :
    (opcodeRaw 0x04050007).toNat = 4 ∧ srcVal .imm 9 demo ∈ demo.ids ∧ srcVal (.reg .r0) 9 demo ∉ demo.ids := by decide

theorem witness_SelectRamDeviceSelectsOrKeepsTheSelection :
    (7 : Word) ∈ demo.ids ∧ demo.active = some 7 ∧ (8 : Word) ∉ demo.ids := by decide

theorem witness_LoadReadsTheAlignedWordBigEndian :
    demo.active = some 7 ∧ demo.dev 7 = some ⟨7, .ram exampleMemory⟩ ∧
    (Device.mk 7 (.ram exampleMemory)).isRam = true := by decide

/-- For a register and for an immediate destination. -/
theorem witness_StoreWritesTheAlignedWordBigEndian :
    demo.active = some 7 ∧ demo.dev 7 = some ⟨7, .ram exampleMemory⟩ ∧
    (Device.mk 7 (.ram exampleMemory)).isRam = true ∧ (Device.mk 7 (.ram exampleMemory)).wf = true ∧
    addrVal (.reg .r1) 0 demo = some 0x0103 ∧ addrVal .imm 0xFFFF demo = some 0xFFFF := by decide

/-- `store #0xBEEF -> [r1]`, then `load #0x0102 -> r0`. -/
theorem witness_ALoadAfterAStoreReturnsTheStoredWord :
    demo.active = some 7 ∧ demo.dev 7 = some ⟨7, .ram exampleMemory⟩ ∧
    (Device.mk 7 (.ram exampleMemory)).isRam = true ∧ (Device.mk 7 (.ram exampleMemory)).wf = true ∧
    addrVal (.reg .r1) 0xBEEF demo = some 0x0103 ∧
    ∃ t, exec (.store .imm (.reg .r1) 0xBEEF) demo = .next t ∧ align (srcVal .imm 0x0102 t) = align 0x0103 :=
  ⟨rfl, rfl, rfl, by decide, rfl, _, rfl, by decide⟩

theorem witness_AnAbstractDevicesAnswersPropagate :
    demoOther.active = some 3 ∧ demoOther.dev 3 = some ⟨3, .other⟩ ∧ (Device.mk 3 .other).isRam = false ∧
    addrVal .imm 5 demoOther = some 5 := by decide

/-! ### Witnesses: errors -/

theorem witness_ContractViolationIsTheFaultOfABadDestination :
    exec (.set .imm .none 1) demo = .fault .contractViolation ∧
    exec (.load .imm .imm 1) demo = .fault .contractViolation ∧
    exec (.add .imm .none 1) demo = .fault .contractViolation ∧
    exec (.store .imm .none 1) demo = .fault .contractViolation := ⟨rfl, rfl, rfl, rfl⟩

theorem witness_NoActiveRamDeviceIsTheFaultOfAnEarlyAccess :
    exec (.load .imm (.reg .r0) 1) demoUnselected = .fault .noActiveRamDevice ∧
    exec (.store .imm .imm 1) demoUnselected = .fault .noActiveRamDevice := ⟨rfl, rfl⟩

theorem good_demo : GoodState demo where
  ids_nodup := by decide
  devices_le := by decide
  active_registered := fun id h => by cases h; decide
  devices_wf := by decide
  pending_wf := by decide
  reserved_reset := by decide
  prog_le := by decide

theorem witness_LegalInstructionsComplete :
    (Instr.load .imm (.reg .r0) 10).wellFormed = true ∧ GoodState demo ∧ demo.active ≠ none :=
  ⟨by decide, good_demo, by decide⟩

/-- A skipped instruction; Invalid; a Set with no destination; an early Load; an unregistered id; a Load from RAM. -/
theorem witness_ErrorsAreTestedInTheOrderOfPriority :
    demoSkip.skip = true ∧ demo.skip = false ∧ (decode 0x00000000).opcode = .invalid ∧
    violatesContract (decode 0x03050064) = true ∧
    demoUnselected.skip = false ∧ violatesContract (decode 0x0535000A) = false ∧ accessesRam (decode 0x0535000A) = true ∧
    demoUnselected.active = none ∧
    (decode 0x04050008).opcode = .selectRamDevice ∧
    srcVal (decode 0x04050008).src (decode 0x04050008).imm demo ∉ demo.ids ∧
    (decode 0x0535000A).opcode ≠ .invalid ∧ (decode 0x0535000A).opcode ≠ .selectRamDevice ∧
    (∀ id d, demo.active = some id → demo.dev id = some d → d.isRam = true) ∧
    ∃ t, execute 0x0535000A demo = .next t := by
  refine ⟨by decide, by decide, by decide, by decide, by decide, by decide, by decide, by decide, by decide, by decide,
    by decide, by decide, ?_, _, rfl⟩
  rintro _ _ ⟨⟩ ⟨⟩
  rfl

theorem witness_ProgramErrorComesFromADispatchedInvalidOnly :
    (∃ t, execute 0x00000000 demo = .next t ∧ t.result = .err .programError) ∧
    ∃ t, configure (.selectRamDevice 7) demo = .next t := ⟨⟨_, rfl, rfl⟩, _, rfl⟩

theorem witness_DeviceDoesNotExistComesFromAnUnregisteredId :
    (∃ t, execute 0x04050008 demo = .next t) ∧ (∃ t, configure (.selectRamDevice 8) demo = .next t) ∧
    (∀ v, Txn.configure (.selectRamDevice 8) ≠ .writePc v) ∧
    ∃ t, transact (.configure (.selectRamDevice 8)) demo = .next t ∧ t.result = .err .deviceDoesNotExist :=
  ⟨⟨_, rfl⟩, ⟨_, rfl⟩, nofun, _, rfl, rfl⟩

theorem crowded_length (n : Nat) : (crowded n).registry.length = n := by simp [crowded, devices]

theorem crowded_ids (n : Nat) : (crowded n).ids = (List.range n).map (BitVec.ofNat 16) := by
  simp [crowded, devices, State.ids, Device.newRam, Function.comp_def]

theorem crowded_mem {n k : Nat} (hk : k < n) : BitVec.ofNat 16 k ∈ (crowded n).ids := by
  rw [crowded_ids]
  exact List.mem_map_of_mem (List.mem_range.mpr hk)

theorem good_crowded {n : Nat} (hn : n ≤ 65536) : GoodState (crowded n) where
  ids_nodup := by
    rw [crowded_ids]
    refine List.Nodup.map_on ?_ List.nodup_range
    intro a ha b hb hab
    have h := congrArg BitVec.toNat hab
    simp only [BitVec.toNat_ofNat, List.mem_range] at h ha hb
    omega
  devices_le := by rw [crowded_length]; exact hn
  active_registered := nofun
  devices_wf := by
    intro d hd
    obtain ⟨k, _, rfl⟩ := List.mem_map.mp hd
    rfl
  pending_wf := nofun
  reserved_reset := show reservedFlags State.reset.flags = State.reset.params.flagsReset by decide
  prog_le := Nat.zero_le _

/-- The device bound reached: connecting one more returns `TooManyDevices`. -/
theorem connect_above_bound (d : Device) {s : State} (h : s.registry.length + 1 > s.params.maxDevices) :
    configure (.connectDevice d) s = .next { s with result := .err .tooManyDevices, haltReq := false } := if_pos h

theorem crowded_bound : (crowded 65536).registry.length + 1 > (crowded 65536).params.maxDevices := by
  rw [crowded_length]
  decide

/-- Both errors: a taken id, and the bound. -/
theorem witness_ConnectionErrorsComeFromConnectDeviceOnly :
    (∃ t, execute 0x04050008 demo = .next t) ∧
    (∃ t, configure (.connectDevice (.newRam 7)) demo = .next t ∧ t.result = .err .deviceIdExists) ∧
    ∃ t, configure (.connectDevice (.newRam 7)) (crowded 65536) = .next t ∧ t.result = .err .tooManyDevices :=
  ⟨⟨_, rfl⟩, ⟨_, rfl, rfl⟩, _, connect_above_bound _ crowded_bound, rfl⟩

theorem witness_AFailingExecuteHasNoEffect :
    ∃ t, execute 0x04050008 demo = .next t ∧ t.result = .err .deviceDoesNotExist := ⟨_, rfl, rfl⟩

/-! ### Witnesses: who reads and who writes which state -/

/-- One transaction for each clause: `selram #9`, `nop`, a skipped slot, `store #0xBEEF -> [r1]`, `set #100 -> r0`,
`halt`. -/
theorem witness_ExecuteChangesOnlyWhatItsOpcodeMay :
    (∃ t, execute 0x04050009 demo = .next t ∧ t.active ≠ demo.active) ∧
    (∃ t, execute 0x01000000 demo = .next t ∧ demo.skip = false ∧ t.skip = true) ∧
    (∃ t, execute 0x03150064 demoSkip = .next t ∧ demoSkip.skip = true) ∧
    (∃ t, execute 0x0625BEEF demo = .next t ∧ ¬ KeepsMemory demo t) ∧
    (∃ t, execute 0x03150064 demo = .next t ∧ ¬ KeepsRegs demo t) ∧
    ∃ t, execute 0x02000000 demo = .next t ∧ t.haltReq = true :=
  ⟨⟨_, rfl, by decide⟩, ⟨_, rfl, by decide, by decide⟩, ⟨_, rfl, by decide⟩,
    ⟨_, rfl, fun h => absurd (h 7 0x0103) (by decide)⟩, ⟨_, rfl, fun h => absurd (h .r0) (by decide)⟩, _, rfl, rfl⟩

theorem witness_ARegisterIsWrittenOnlyAsADestination :
    (∃ t, execute 0x03150064 demo = .next t ∧ t.readReg .r0 ≠ demo.readReg .r0) ∧
    (∃ t, configure (.selectRamDevice 9) demo = .next t) ∧ ∃ t, transact (.writePc 5) demo = .next t :=
  ⟨⟨_, rfl, by decide⟩, ⟨_, rfl⟩, _, rfl⟩

/-- Neither read nor written, and written only. -/
theorem witness_ARegisterNotReadDoesNotInfluenceAnInstruction :
    readsReg (.set .imm (.reg .r0) 1) .r1 = false ∧ writtenReg (.set .imm (.reg .r0) 1) ≠ some .r1 ∧
    readsReg (.set .imm (.reg .r0) 1) .r0 = false := by decide

theorem witness_ExecuteNeitherReadsNorWritesThePc : ∃ t, execute 0x03150064 demo = .next t := ⟨_, rfl⟩

theorem witness_TheSkipFlagLivesForOneExecute :
    (∃ t u, execute 0x01000000 demo = .next t ∧ t.skip = true ∧ execute 0x01000000 t = .next u) ∧
    (∃ t, configure (.selectRamDevice 9) demoSkip = .next t) ∧
    ∃ t, execute 0x00000000 demo = .next t ∧ t.result = .err .programError :=
  ⟨⟨_, _, rfl, by decide, rfl⟩, ⟨_, rfl⟩, _, rfl, rfl⟩

theorem witness_AnInactiveDeviceDoesNotInfluenceAnInstruction :
    demo.active ≠ some (Device.newRam 9).id ∧ (Device.newRam 9).id ∈ demo.ids := by decide

/-! ### Witnesses: devices, memory and the registry -/

theorem witness_ARamReadAnswersTheAlignedWord :
    (Device.newRam 7).kind = .ram [] ∧ ∃ t, exec (.load .imm (.reg .r2) 10) demo = .next t := ⟨rfl, _, rfl⟩

theorem witness_ARamWriteStoresTheAlignedWord :
    (Device.mk 7 (.ram exampleMemory)).kind = .ram exampleMemory ∧ Memory.wf exampleMemory = true := by decide

/-- The same word from both ends of the address space, another word, an odd and an even address; and two Loads of one
word, by `load r0 -> r1` with `x[0] = 10` and from address 11. -/
theorem witness_TheRamDeviceObeysItsLaws :
    Memory.wf exampleMemory = true ∧ align 0xFFFF = align 0xFFFE ∧ align 1 = align 0 ∧ align 2 ≠ align 1 ∧
    (0xFFFF : Word).getLsbD 0 = true ∧ (0 : Word).getLsbD 0 = false ∧
    demo.active = some 7 ∧ demo.dev 7 = some ⟨7, .ram exampleMemory⟩ ∧
    (Device.mk 7 (.ram exampleMemory)).isRam = true ∧
    ∃ t, exec (.load (.reg .r0) (.reg .r1) 0) demo = .next t ∧ align (srcVal .imm 11 t) = align (srcVal (.reg .r0) 0 demo) :=
  ⟨by decide, by decide, by decide, by decide, by decide, by decide, rfl, rfl, rfl, _, rfl, by decide⟩

theorem witness_MemoriesWithTheSameBytesAreEqual :
    Memory.wf exampleMemory = true ∧
    ∀ a, a < Config.ramBytes → exampleMemory.readByte a = exampleMemory.readByte a := ⟨by decide, fun _ _ => rfl⟩

/-- A device that is found, and the registry scanned in another order. -/
theorem witness_TheLookupFindsTheDeviceWithTheId :
    demo.dev 9 = some ⟨9, .ram []⟩ ∧ demo.dev 8 = none ∧ demo.ids.Nodup ∧
    [Device.mk 9 (.ram []), ⟨7, .ram exampleMemory⟩].Perm demo.registry :=
  ⟨by decide, by decide, by decide, List.Perm.swap ..⟩

/-- The bound, and one device below it with a taken and with a free id. -/
theorem witness_ConnectDeviceAppendsOrFails :
    (crowded 65536).registry.length + 1 > (crowded 65536).params.maxDevices ∧
    (crowded 65535).registry.length + 1 ≤ (crowded 65535).params.maxDevices ∧
    (Device.newRam 65534).id ∈ (crowded 65535).ids ∧ (Device.newRam 65535).id ∉ (crowded 65535).ids := by
  refine ⟨crowded_bound, ?_, crowded_mem (k := 65534) (by decide), ?_⟩
  · rw [crowded_length]; decide
  · rw [crowded_ids]
    intro h
    obtain ⟨k, hk, he⟩ := List.mem_map.mp h
    have := congrArg BitVec.toNat he
    simp only [BitVec.toNat_ofNat, List.mem_range, Device.newRam] at this hk
    have e : BitVec.toNat (65535 : Word) = 65535 := rfl
    omega

theorem witness_TooManyDevicesOnlyWhenEveryIdIsTaken :
    GoodState (crowded 65536) ∧ 65536 ≤ (crowded 65536).params.maxDevices ∧
    ∃ t, configure (.connectDevice (.newRam 7)) (crowded 65536) = .next t ∧ t.result = .err .tooManyDevices :=
  ⟨good_crowded (Nat.le_refl _), Nat.le_refl 65536, _, connect_above_bound _ crowded_bound, rfl⟩

/-! ### Witnesses: invariants and runs -/

theorem good_demoRun (w : InstrWord) : GoodState (demoRun w) :=
  { good_demo with prog_le := show 1 ≤ 65536 by decide }

theorem witness_EveryStepKeepsTheInvariant :
    GoodState (demoRun 0x0625BEEF) ∧ ∃ t, step (demoRun 0x0625BEEF) = .next t := ⟨good_demoRun _, _, rfl⟩

theorem witness_EveryTransactionKeepsTheInvariant :
    GoodState demo ∧ (Txn.configure (.connectDevice ⟨1, .ram exampleMemory⟩)).wf = true ∧
    ∃ t, transact (.configure (.connectDevice ⟨1, .ram exampleMemory⟩)) demo = .next t :=
  ⟨good_demo, by decide, _, rfl⟩

theorem witness_DevicesAreOnlyAppendedAndSelectionsNeverUndone :
    demo.active ≠ none ∧
    ∃ t, runTxns [.configure (.connectDevice (.newRam 1)), .execute 0x04050001, .execute 0x00000000] demo = .next t :=
  ⟨by decide, _, rfl⟩

/-- Two stores to one word, and a byte that holds something before. -/
theorem witness_EveryByteHoldsItsLatestStore :
    GoodState demo ∧ (∀ x ∈ [Txn.execute 0x0625BEEF, .execute 0x0621BEEF], x.wf = true) ∧
    (∃ t, runTxns [.execute 0x0625BEEF, .execute 0x0621BEEF] demo = .next t) ∧ demo.readByte 7 11 = some 0x64 :=
  ⟨good_demo, by decide, ⟨_, rfl⟩, by decide⟩

/-- Each of the two faults, from a good state. -/
theorem witness_AGoodStateStopsOnlyWithTheTwoFaultsOfTheSpec :
    GoodState (demoRun 0x03050064) ∧ step (demoRun 0x03050064) = .fault .contractViolation ∧
    GoodState { demoRun 0x0535000A with active := none } ∧
    step { demoRun 0x0535000A with active := none } = .fault .noActiveRamDevice :=
  ⟨good_demoRun _, rfl, { good_demoRun 0x0535000A with active_registered := nofun }, rfl⟩

theorem witness_ALegalProgramNeverFaultsOnceADeviceIsSelected :
    GoodState (demoRun 0x0535000A) ∧ (demoRun 0x0535000A).pending = [] ∧ (demoRun 0x0535000A).active ≠ none ∧
    (demoRun 0x0535000A).legalProgram :=
  ⟨good_demoRun _, rfl, by decide, List.forall_mem_singleton.mpr (by decide)⟩

/-! ### Witnesses: the reference driver -/

/-- A prelude that succeeds, one that fails, a `pc` at the end of the program, and an ended run. -/
theorem witness_TheReferenceDriverStartsAndEndsARun :
    demo.outcome = none ∧ demo.pending = [] ∧ demo.prog.length ≤ demo.pc.toNat ∧
    (∃ u, configure (.selectRamDevice 9) demo = .next u ∧ u.result = .ok) ∧
    (∃ u, configure (.selectRamDevice 8) demo = .next u ∧ u.result = .err .deviceDoesNotExist) ∧
    { demo with pending := [.selectRamDevice 9] }.pending = [.selectRamDevice 9] ∧
    { demo with outcome := some .halted }.outcome ≠ none :=
  ⟨rfl, rfl, by decide, ⟨_, rfl, rfl⟩, ⟨_, rfl, rfl⟩, rfl, by decide⟩

theorem witness_ARunBecomesFinalExactlyByADispatchedHalt :
    (demoRun 0x02000000).outcome = none ∧ ∃ t, step (demoRun 0x02000000) = .next t ∧ t.isFinal = true :=
  ⟨rfl, _, rfl, by decide⟩

theorem witness_TheProgramTextNeverChanges : ∃ t, runSteps 2 (demoRun 0x0625BEEF) = .next t := ⟨_, rfl⟩

theorem witness_TheParametersAreFixedAndInvisibleToInstructions :
    (∃ t, transact (.configure (.connectDevice (.newRam 1))) demo = .next t) ∧
    ∃ t, runSteps 2 (demoRun 0x0625BEEF) = .next t := ⟨⟨_, rfl⟩, _, rfl⟩

end Sys2Proof.Tests
end

section
/-! ### O38: `execute` neither reads nor writes `pc` (10_state R23)

Replacing `pc` commutes with each shared operation, so with each instruction, so with `execute`: that `pc` is not read.
That it is not written is the case where `pc` is replaced by the value it has. -/

namespace Sys2Proof.Machine

open Sys2Proof

/-- The state with `pc` replaced. -/
def State.withPc (p : Word) (s : State) : State := { s with pc := p }

/-- An access with the state after it, or the state it raises its error in, changed by `f`. -/
def Access.mapState {α : Type} (f : State → State) : Access α → Access α
  | .done v s => .done v (f s)
  | .err k s => .err k (f s)
  | .stop e => .stop e

variable {s t : State} {p : Word}

/-! #### What the replaced `pc` leaves unchanged -/

@[simp] theorem State.withPc_pc : (s.withPc p).pc = p := rfl
@[simp] theorem State.withPc_self : s.withPc s.pc = s := rfl
@[simp] theorem State.withPc_skip : (s.withPc p).skip = s.skip := rfl
@[simp] theorem State.withPc_active : (s.withPc p).active = s.active := rfl
@[simp] theorem State.withPc_draws : (s.withPc p).draws = s.draws := rfl
@[simp] theorem State.withPc_dev (id : Word) : (s.withPc p).dev id = s.dev id := rfl
@[simp] theorem State.withPc_readReg (r : Reg) : (s.withPc p).readReg r = s.readReg r := rfl

@[simp] theorem srcVal_withPc (src : Sel) (imm : Word) : srcVal src imm (s.withPc p) = srcVal src imm s := by
  cases src <;> rfl

@[simp] theorem addrVal_withPc (dst : Sel) (imm : Word) : addrVal dst imm (s.withPc p) = addrVal dst imm s := by
  cases dst <;> rfl

/-! #### The shared operations, with `pc` replaced before or after -/

@[simp] theorem State.writeReg_withPc (r : Reg) (v : Word) :
    (s.withPc p).writeReg r v = (s.writeReg r v).withPc p := rfl

@[simp] theorem State.putDevice_withPc (d : Device) : (s.withPc p).putDevice d = (s.putDevice d).withPc p := rfl

@[simp] theorem State.countDraw_withPc (d : Device) : (s.withPc p).countDraw d = (s.countDraw d).withPc p := by
  unfold State.countDraw
  split <;> rfl

@[simp] theorem returnOk_withPc : returnOk (s.withPc p) = mapNext (State.withPc p) (returnOk s) := rfl

@[simp] theorem raise_withPc (k : ErrorKind) : raise k (s.withPc p) = mapNext (State.withPc p) (raise k s) := by
  cases k <;> rfl

theorem selectRamDevice_withPc (id : Word) :
    selectRamDevice id (s.withPc p) = mapNext (State.withPc p) (selectRamDevice id s) := by
  unfold selectRamDevice
  rw [State.withPc_dev]
  cases s.dev id with
  | none => exact raise_withPc _
  | some d => rfl

/-! #### Accesses to the active device -/

theorem activeDevice_withPc : activeDevice (s.withPc p) = (activeDevice s).mapState (State.withPc p) := by
  unfold activeDevice
  rw [State.withPc_active]
  cases s.active with
  | none => rfl
  | some id =>
    dsimp only
    rw [State.withPc_dev]
    cases s.dev id <;> rfl

@[simp] theorem readAnswer_withPc (r : DevAnswer) :
    readAnswer r (s.withPc p) = (readAnswer r s).mapState (State.withPc p) := by
  cases r <;> rfl

@[simp] theorem writeAnswer_withPc (r : DevAnswer) :
    writeAnswer r (s.withPc p) = (writeAnswer r s).mapState (State.withPc p) := by
  cases r <;> rfl

theorem memRead_withPc (a : Word) : memRead a (s.withPc p) = (memRead a s).mapState (State.withPc p) := by
  unfold memRead
  rw [activeDevice_withPc]
  cases activeDevice s with
  | done d u => simp [Access.mapState]
  | err k u => rfl
  | stop e => rfl

theorem memWrite_withPc (a v : Word) : memWrite a v (s.withPc p) = (memWrite a v s).mapState (State.withPc p) := by
  unfold memWrite
  rw [activeDevice_withPc]
  cases activeDevice s with
  | done d u => simp [Access.mapState]
  | err k u => rfl
  | stop e => rfl

/-- An instruction that goes on after an access in the same way for every `pc`. -/
theorem Access.andThen_withPc {α : Type} (r : Access α) {f : α → State → Out}
    (hf : ∀ v u, f v (u.withPc p) = mapNext (State.withPc p) (f v u)) :
    (r.mapState (State.withPc p)).andThen f = mapNext (State.withPc p) (r.andThen f) := by
  cases r with
  | done v u => exact hf v u
  | err k u => exact raise_withPc k
  | stop e => rfl

/-! #### Instructions and `execute` -/

/-- A dispatched instruction does the same with another `pc`, and keeps that one. -/
theorem exec_withPc (i : Instr) : exec i (s.withPc p) = mapNext (State.withPc p) (exec i s) := by
  cases i with
  | invalid src dst imm => exact raise_withPc .programError
  | nop src dst imm => rfl
  | halt src dst imm => rfl
  | set src dst imm =>
    simp only [exec, execSet]
    cases dstReg dst <;> simp
  | selram src dst imm =>
    simp only [exec, execSelram, srcVal_withPc]
    exact selectRamDevice_withPc _
  | load src dst imm =>
    simp only [exec, execLoad, srcVal_withPc, memRead_withPc]
    cases dstReg dst with
    | none => exact raise_withPc _
    | some j => exact Access.andThen_withPc _ fun _ _ => rfl
  | store src dst imm =>
    simp only [exec, execStore, srcVal_withPc, addrVal_withPc, memWrite_withPc]
    cases addrVal dst imm s with
    | none => exact raise_withPc _
    | some a => exact Access.andThen_withPc _ fun _ _ => rfl
  | add src dst imm =>
    simp only [exec, execAdd]
    cases dstReg dst <;> simp

/-- `execute` does not read `pc`, whether it skips, dispatches or fails. -/
theorem execute_withPc (w : InstrWord) : execute w (s.withPc p) = mapNext (State.withPc p) (execute w s) := by
  cases hs : s.skip with
  | true =>
    rw [execute_skipped hs, execute_skipped (State.withPc_skip.trans hs)]
    rfl
  | false =>
    rw [execute_dispatched hs, execute_dispatched (State.withPc_skip.trans hs)]
    exact exec_withPc _

/-- `execute` does not write `pc`: replacing `pc` by its own value changes nothing before, so nothing after. -/
theorem execute_pc {w : InstrWord} (h : execute w s = .next t) : t.pc = s.pc := by
  have own : mapNext (State.withPc s.pc) (execute w s) = .next t := by
    rw [← execute_withPc, State.withPc_self, h]
  obtain ⟨u, -, rfl⟩ := mapNext_next own
  exact State.withPc_pc

/-- Settles O38: `pc` is not read (`execute_withPc`), not written (`execute_pc`), and the driver's write sets it alone. -/
theorem executeNeitherReadsNorWritesThePc : Obligations.ExecuteNeitherReadsNorWritesThePc :=
  ⟨fun w _ _ => execute_withPc w, fun _ _ _ => execute_pc, fun _ _ => rfl⟩

end Sys2Proof.Machine
end

section
/-! ### The registry and the RAM devices (20_memory): O22, O42, O43, O46

The lookup and `select_ram_device` in terms of the ids that are registered, and the two actions of a RAM device as the
word operations on its backing array. -/

namespace Sys2Proof.Machine

open Sys2Proof

variable {s t : State}

/-! #### The lookup, when ids are unique (20_memory R48, 10_state R29) -/

theorem State.not_mem_ids {id : Word} : id ∉ s.ids ↔ s.dev id = none := findDevice_none.symm

/-- With unique ids the first device of an id is the only one, so what the lookup finds does not depend on the order. -/
theorem findDevice_eq_some_iff {ds : List Device} (unique : (ds.map Device.id).Nodup) {id : Word} {d : Device} :
    findDevice ds id = some d ↔ d ∈ ds ∧ d.id = id := by
  refine ⟨fun h => ⟨findDevice_mem h, findDevice_id h⟩, ?_⟩
  rintro ⟨hd, rfl⟩
  cases he : findDevice ds d.id with
  | none => exact absurd (List.mem_map_of_mem hd) (findDevice_none.mp he)
  | some e => rw [List.inj_on_of_nodup_map unique (findDevice_mem he) hd (findDevice_id he)]

/-- The lookup gives the same answer in every order of a registry with unique ids. -/
theorem findDevice_perm {ds es : List Device} (unique : (es.map Device.id).Nodup) (h : ds.Perm es) (id : Word) :
    findDevice ds id = findDevice es id := by
  have unique' : (ds.map Device.id).Nodup := (h.map Device.id).nodup_iff.mpr unique
  refine Option.ext fun d => ?_
  rw [findDevice_eq_some_iff unique', findDevice_eq_some_iff unique, h.mem_iff]

/-- Settles O46: the lookup's own laws, and its independence of the order (`findDevice_perm`). -/
theorem theLookupFindsTheDeviceWithTheId : Obligations.TheLookupFindsTheDeviceWithTheId := by
  refine ⟨fun s id d h => ⟨findDevice_mem h, findDevice_id h⟩, fun s id => ?_,
    fun s ds id unique h => findDevice_perm unique h id⟩
  rw [← State.not_mem_ids]
  simp [State.ids]

/-! #### `select_ram_device` (20_memory R49) -/

theorem selectRamDevice_registered {id : Word} (h : id ∈ s.ids) :
    selectRamDevice id s = .next { s with active := some id, result := .ok, haltReq := false } := by
  obtain ⟨d, hd⟩ := State.mem_ids.mp h
  simp [selectRamDevice, hd, returnOk]

theorem selectRamDevice_unregistered {id : Word} (h : id ∉ s.ids) :
    selectRamDevice id s = .next { s with result := .err .deviceDoesNotExist, haltReq := false } := by
  simp [selectRamDevice, State.not_mem_ids.mp h, raise]

/-- The bytes of the RAM devices are a matter of the registry alone. -/
theorem keepsMemory_of_registry (h : t.registry = s.registry) : KeepsMemory s t := by
  intro id a
  simp only [State.readByte, State.dev, h]

/-- Settles O22: the two outcomes of `select_ram_device` written out; the instruction calls the same operation. -/
theorem selectRamDeviceSelectsOrKeepsTheSelection : Obligations.SelectRamDeviceSelectsOrKeepsTheSelection := by
  refine ⟨fun id s h => ?_, fun id s h => ?_, fun id s h active => ?_, fun src dst imm s => rfl⟩
  · exact ⟨_, selectRamDevice_registered h, rfl, fun _ => rfl, rfl, rfl, keepsMemory_of_registry rfl,
      ⟨rfl, rfl, rfl, rfl, rfl⟩, rfl⟩
  · exact ⟨_, selectRamDevice_unregistered h, rfl, fun _ => rfl, rfl, rfl, keepsMemory_of_registry rfl,
      ⟨rfl, rfl, rfl, rfl, rfl⟩, rfl⟩
  · exact ⟨_, selectRamDevice_registered h, active.symm⟩

/-! #### The actions of a RAM device (20_memory R58, R59) -/

variable {d : Device} {m : Memory}

theorem Device.primary_ram (h : d.kind = .ram m) (n : Nat) (a : Word) : d.primary n a = .data (m.readWord a) := by
  simp only [Device.primary, h]

theorem Device.secondary_ram (h : d.kind = .ram m) (n : Nat) (a v : Word) :
    d.secondary n a v = (.noOutput, { d with kind := .ram (m.writeWord a v) }) := by
  simp only [Device.secondary, h]

/-- The value of two bytes in big-endian order (20_memory R54). -/
theorem toNat_append_byte (hi lo : Byte) : (hi ++ lo).toNat = hi.toNat * 256 + lo.toNat := by
  rw [BitVec.toNat_append, ← Nat.shiftLeft_add_eq_or_of_lt lo.isLt, Nat.shiftLeft_eq]

theorem Memory.readWord_toNat (m : Memory) (a : Word) : (m.readWord a).toNat =
    (m.readByte (align a).toNat).toNat * 256 + (m.readByte ((align a).toNat + 1)).toNat :=
  toNat_append_byte _ _

/-- A Load that answers, from any device, leaves the registry as it was (20_memory R58, 43_device_access R151). -/
theorem execLoad_registry {src dst : Sel} {imm : Word} (h : execLoad src dst imm s = .next t) :
    t.registry = s.registry := by
  obtain ⟨j, id, d, -, -, -, ⟨v, -, rfl⟩ | ⟨k, -, -, rfl⟩⟩ := execLoad_next h
  · exact State.countDraw_registry s d
  · exact State.countDraw_registry s d

/-- Settles O42: the primary action of a RAM device reads a word, and a Load puts no device back. -/
theorem aRamReadAnswersTheAlignedWord : Obligations.ARamReadAnswersTheAlignedWord :=
  ⟨fun _ m n a ram => ⟨m.readWord a, Device.primary_ram ram n a, m.readWord_toNat a⟩,
    fun _ _ _ _ _ h => execLoad_registry h⟩

/-- Settles O43: the secondary action of a RAM device is the word write, by the laws of `Memory.writeWord`. -/
theorem aRamWriteStoresTheAlignedWord : Obligations.ARamWriteStoresTheAlignedWord :=
  fun _ m n a v ram canonicalForm =>
    ⟨m.writeWord a v, Device.secondary_ram ram n a v, Memory.wf_writeWord canonicalForm a v,
      Memory.readByte_writeWord_high canonicalForm a v, Memory.readByte_writeWord_low canonicalForm a v,
      fun _ notHigh notLow => Memory.readByte_writeWord_other m a v notHigh notLow⟩

end Sys2Proof.Machine
end

section
/-! ### The fields of a decoded word (30_encoding): O4, O5, O6

A row of a decoding table is the code of what it names, so a row follows from "decoding a code gives back what it is
the code of"; the codes past the last row fall to the default. -/

namespace Sys2Proof

/-! #### The fields of an instruction that is built, so of one that is decoded (30_encoding R87) -/

section
variable (op : Opcode) (src dst : Sel) (imm : Word)

@[simp] theorem Instr.opcode_build : (Instr.build op src dst imm).opcode = op := by cases op <;> rfl
@[simp] theorem Instr.src_build : (Instr.build op src dst imm).src = src := by cases op <;> rfl
@[simp] theorem Instr.dst_build : (Instr.build op src dst imm).dst = dst := by cases op <;> rfl

end

theorem decode_opcode (w : InstrWord) : (decode w).opcode = Opcode.ofByte (opcodeRaw w) := Instr.opcode_build _ _ _ _

theorem decode_src (w : InstrWord) : (decode w).src = Sel.ofNibble (srcNibble (operandByte w)) :=
  Instr.src_build _ _ _ _

theorem decode_dst (w : InstrWord) : (decode w).dst = Sel.ofNibble (dstNibble (operandByte w)) :=
  Instr.dst_build _ _ _ _

/-! #### The opcode table (30_encoding R83) -/

/-- A raw opcode past the table decodes to `Invalid`. -/
theorem Opcode.ofByte_out_of_range {b : Byte} (h : 8 ≤ b.toNat) : Opcode.ofByte b = .invalid := by
  unfold Opcode.ofByte
  split
  case h_1 | h_9 => rfl
  all_goals omega

/-- The row of the table with the code of `op`. -/
theorem decode_opcode_of_code {w : InstrWord} {op : Opcode} (h : (opcodeRaw w).toNat = op.code.toNat) :
    (decode w).opcode = op := by
  rw [decode_opcode, BitVec.eq_of_toNat_eq h, Laws.Opcode.ofByte_code]

/-- Settles O4: rows 0 to 7 are the codes of the eight opcodes, and decoding reads the opcode byte alone. -/
theorem theOpcodeByteAloneSelectsTheOpcode : Obligations.TheOpcodeByteAloneSelectsTheOpcode :=
  ⟨fun w => ⟨decode_opcode_of_code (op := .invalid), decode_opcode_of_code (op := .noOp),
    decode_opcode_of_code (op := .halt), decode_opcode_of_code (op := .set),
    decode_opcode_of_code (op := .selectRamDevice), decode_opcode_of_code (op := .load),
    decode_opcode_of_code (op := .store), decode_opcode_of_code (op := .add),
    fun outOfRange => (decode_opcode w).trans (Opcode.ofByte_out_of_range outOfRange)⟩,
  fun w w' sameByte => by rw [decode_opcode, decode_opcode, sameByte]⟩

/-! #### The selector table (30_encoding R84) -/

theorem Sel.ofNibble_code (s : Sel) : Sel.ofNibble s.code = s := by
  cases s with
  | none => rfl
  | reg r => cases r <;> rfl
  | imm => rfl

/-- A selector code past the table decodes to `None`. -/
theorem Sel.ofNibble_out_of_range {n : Nibble} (h : 6 ≤ n.toNat) : Sel.ofNibble n = .none := by
  unfold Sel.ofNibble
  split
  case h_6 => rfl
  all_goals omega

/-- The row of the table with the code of `s`. -/
theorem Sel.ofNibble_of_code {n : Nibble} {s : Sel} (h : n.toNat = s.code.toNat) : Sel.ofNibble n = s := by
  rw [BitVec.eq_of_toNat_eq h, Sel.ofNibble_code]

/-- Settles O5: rows 0 to 5 are the codes of the six selectors, and both positions use the one table. -/
theorem eachSelectorNibbleDecodesByItsRow : Obligations.EachSelectorNibbleDecodesByItsRow :=
  ⟨fun _ => ⟨Sel.ofNibble_of_code (s := .none), Sel.ofNibble_of_code (s := .reg .r0),
    Sel.ofNibble_of_code (s := .reg .r1), Sel.ofNibble_of_code (s := .reg .r2), Sel.ofNibble_of_code (s := .reg .r3),
    Sel.ofNibble_of_code (s := .imm), Sel.ofNibble_out_of_range⟩,
  fun w => ⟨decode_src w, decode_dst w⟩⟩

/-! #### The operand byte (30_encoding R85) -/

theorem srcNibble_toNat (b : Byte) : (srcNibble b).toNat = b.toNat % 16 := BitVec.extractLsb'_toNat ..

theorem dstNibble_toNat (b : Byte) : (dstNibble b).toNat = b.toNat / 16 := by
  rw [dstNibble, BitVec.extractLsb'_toNat, Nat.shiftRight_eq_div_pow]
  have := b.isLt
  omega

/-- Settles O6: the two nibbles are the quotient and the remainder of the operand byte by 16. -/
theorem theOperandBytePacksBothSelectors : Obligations.TheOperandBytePacksBothSelectors := by
  refine ⟨fun b => ⟨rfl, rfl, ?_⟩, rfl, rfl⟩
  rw [dstNibble_toNat, srcNibble_toNat, Nat.div_add_mod']

end Sys2Proof
end

section
/-! ### The common step (40_execute_step): O10, O12

What a source operand is worth under each selector, and what `execute` does once the NOP-skip flag has been tested. -/

namespace Sys2Proof.Machine

open Sys2Proof

variable {s : State}

/-! #### The source operand (40_execute_step R113) -/

@[simp] theorem srcVal_none (imm : Word) (s : State) : srcVal .none imm s = 0 := rfl
@[simp] theorem srcVal_reg (r : Reg) (imm : Word) (s : State) : srcVal (.reg r) imm s = s.readReg r := rfl
@[simp] theorem srcVal_imm (imm : Word) (s : State) : srcVal .imm imm s = imm := rfl

/-- Settles O10: one equation of `srcVal` for each kind of selector. -/
theorem aSourceOperandResolvesByItsSelector : Obligations.ASourceOperandResolvesByItsSelector :=
  fun imm s => ⟨srcVal_none imm s, fun r => srcVal_reg r imm s, srcVal_imm imm s⟩

/-! #### Dispatch (40_execute_step R111, R112) -/

theorem returnOk_ne_refused {r : Refusal} : returnOk s ≠ .refused r := by simp [returnOk]

/-- No word is refused: a skipped one answers `Ok`, and a dispatched one decodes to an instruction with a meaning. -/
theorem execute_ne_refused {w : InstrWord} {r : Refusal} : execute w s ≠ .refused r := by
  cases hs : s.skip with
  | true =>
    rw [execute_skipped hs]
    exact returnOk_ne_refused
  | false =>
    rw [execute_dispatched hs]
    exact exec_ne_refused

/-- Settles O12: step 2 of `execute` is the dispatch (`execute_dispatched`), and no word is refused. -/
theorem dispatchIsTheRuleOfTheDecodedInstruction : Obligations.DispatchIsTheRuleOfTheDecodedInstruction :=
  ⟨fun _ _ => execute_dispatched, fun _ _ _ => execute_ne_refused⟩

end Sys2Proof.Machine
end

section
/-! ### Where each error kind comes from (60_exceptions): O31, O32, O33

The errors an `execute` can answer with and those a configuration transaction can answer with, each beside its cause;
a statement about one kind is then a look through these few causes. -/

namespace Sys2Proof.Machine

open Sys2Proof

variable {s t : State} {k : ErrorKind}

/-! #### The instructions that raise an error of the engine's own (60_exceptions R171, R172) -/

theorem exec_of_invalid {i : Instr} (op : i.opcode = .invalid) (s : State) : exec i s = raise .programError s := by
  cases i with
  | invalid src dst imm => rfl
  | _ => cases op

theorem exec_of_selram {i : Instr} (op : i.opcode = .selectRamDevice) (s : State) :
    exec i s = selectRamDevice (srcVal i.src i.imm s) s := by
  cases i with
  | selram src dst imm => rfl
  | _ => cases op

/-! #### The causes of an error -/

/-- The state that `raise k` answers with: no effect but on the outputs (60_exceptions R178). -/
def State.raised (s : State) (k : ErrorKind) : State := { s with result := .err k, haltReq := false }

theorem raise_next_raised (h : raise k s = .next t) : t = s.raised k := (raise_next.mp h).2.2

/-- What a dispatched instruction can raise, with its cause. `device` covers what an abstract device reports of its own
(60_exceptions R176), and leaves `t` open, as such a device draws an answer (log 10). -/
inductive ExecError (i : Instr) (s t : State) : ErrorKind → Prop where
  | invalid (op : i.opcode = .invalid) (unchanged : t = s.raised .programError) : ExecError i s t .programError
  | unregistered (op : i.opcode = .selectRamDevice) (absent : s.dev (srcVal i.src i.imm s) = none)
      (unchanged : t = s.raised .deviceDoesNotExist) : ExecError i s t .deviceDoesNotExist
  | device {k : ErrorKind} (kind : k = .noOutput ∨ k = .invalidInput ∨ k = .wrongArgumentCount) : ExecError i s t k

theorem ExecEffect.error {i : Instr} (effect : ExecEffect i s t) (failed : t.result = .err k) : ExecError i s t k := by
  cases effect with
  | programError op => cases failed; exact .invalid op rfl
  | notRegistered op absent => cases failed; exact .unregistered op absent rfl
  | deviceError _ _ _ _ _ _ _ kind => cases failed; exact .device kind
  | setSkip | halt | writeReg | select | load | store => cases failed

/-- An `execute` that fails was dispatched: a skipped slot returns `Ok` (40_execute_step R111). -/
theorem execute_error {w : InstrWord} (h : execute w s = .next t) (failed : t.result = .err k) :
    s.skip = false ∧ ExecError (decode w) s t k := by
  rcases execute_next h with ⟨-, rfl⟩ | ⟨dispatched, hexec⟩
  · cases failed
  · exact ⟨dispatched, (exec_effect hexec).error failed⟩

/-- What a configuration transaction can raise, with its cause (20_memory R47, R49). -/
inductive ConfigureError (s : State) : CfgTxn → ErrorKind → Prop where
  | unregistered {id : Word} (absent : s.dev id = none) :
    ConfigureError s (.selectRamDevice id) .deviceDoesNotExist
  | idTaken {d : Device} : ConfigureError s (.connectDevice d) .deviceIdExists
  | full {d : Device} : ConfigureError s (.connectDevice d) .tooManyDevices

/-- A configuration transaction that fails has one of three causes, and changes nothing but the outputs. -/
theorem configure_error {c : CfgTxn} (h : configure c s = .next t) (failed : t.result = .err k) :
    ConfigureError s c k ∧ t = s.raised k := by
  cases c with
  | connectDevice d =>
    rcases connectDevice_next h with ⟨-, rfl⟩ | ⟨-, -, rfl⟩ | ⟨-, -, rfl⟩
    · cases failed; exact ⟨.full, rfl⟩
    · cases failed; exact ⟨.idTaken, rfl⟩
    · cases failed
  | selectRamDevice id =>
    rcases selectRamDevice_next h with ⟨absent, rfl⟩ | ⟨d, -, rfl⟩
    · cases failed; exact ⟨.unregistered absent, rfl⟩
    · cases failed

/-! #### `ProgramError` (60_exceptions R171) -/

theorem execute_programError {w : InstrWord} (h : execute w s = .next t) (failed : t.result = .err .programError) :
    s.skip = false ∧ (decode w).opcode = .invalid ∧ t = s.raised .programError := by
  obtain ⟨dispatched, cause⟩ := execute_error h failed
  cases cause with
  | invalid op unchanged => exact ⟨dispatched, op, unchanged⟩
  | device kind => simp at kind

theorem execute_invalid_result {w : InstrWord} (h : execute w s = .next t) (dispatched : s.skip = false)
    (op : (decode w).opcode = .invalid) : t.result = .err .programError := by
  rw [execute_dispatched dispatched, exec_of_invalid op] at h
  rw [raise_next_raised h]
  rfl

/-- Settles O31: only Invalid raises the kind, and always when dispatched; no cause of a configuration error is it. -/
theorem programErrorComesFromADispatchedInvalidOnly : Obligations.ProgramErrorComesFromADispatchedInvalidOnly := by
  refine ⟨fun w s t h => ⟨fun failed => ?_, fun ⟨dispatched, op⟩ => execute_invalid_result h dispatched op⟩,
    fun c s t h failed => ?_, fun w s t h failed => ?_⟩
  · obtain ⟨dispatched, op, -⟩ := execute_programError h failed
    exact ⟨dispatched, op⟩
  · obtain ⟨cause, -⟩ := configure_error h failed
    cases cause
  · obtain ⟨-, -, unchanged⟩ := execute_programError h failed
    exact unchanged

/-! #### `DeviceDoesNotExist` (60_exceptions R172) -/

theorem execute_deviceDoesNotExist {w : InstrWord} (h : execute w s = .next t)
    (failed : t.result = .err .deviceDoesNotExist) :
    (s.skip = false ∧ (decode w).opcode = .selectRamDevice ∧ s.dev (srcVal (decode w).src (decode w).imm s) = none) ∧
      t = s.raised .deviceDoesNotExist := by
  obtain ⟨dispatched, cause⟩ := execute_error h failed
  cases cause with
  | unregistered op absent unchanged => exact ⟨⟨dispatched, op, absent⟩, unchanged⟩
  | device kind => simp at kind

theorem configure_deviceDoesNotExist {c : CfgTxn} (h : configure c s = .next t)
    (failed : t.result = .err .deviceDoesNotExist) : ∃ id, c = .selectRamDevice id ∧ s.dev id = none := by
  obtain ⟨cause, -⟩ := configure_error h failed
  cases cause with
  | unregistered absent => exact ⟨_, rfl, absent⟩

/-- Selecting an id that no device has fails with this kind, for the instruction and the transaction alike. -/
theorem selectRamDevice_absent_result {id : Word} (h : selectRamDevice id s = .next t) (absent : s.dev id = none) :
    t.result = .err .deviceDoesNotExist := by
  rw [selectRamDevice_unregistered (State.not_mem_ids.mpr absent)] at h
  cases h
  rfl

/-- Settles O32: the one cause of the kind for either origin, and the failure of every selection of an absent id. -/
theorem deviceDoesNotExistComesFromAnUnregisteredId : Obligations.DeviceDoesNotExistComesFromAnUnregisteredId := by
  refine ⟨fun w s t h => ⟨fun failed => (execute_deviceDoesNotExist h failed).1, ?_⟩,
    fun c s t h => ⟨configure_deviceDoesNotExist h, ?_⟩, fun x s t notWritePc h failed => ?_⟩
  · rintro ⟨dispatched, op, absent⟩
    rw [execute_dispatched dispatched, exec_of_selram op] at h
    exact selectRamDevice_absent_result h absent
  · rintro ⟨id, rfl, absent⟩
    exact selectRamDevice_absent_result h absent
  · cases x with
    | execute w => exact (execute_deviceDoesNotExist h failed).2
    | configure c => exact (configure_error h failed).2
    | writePc v => exact absurd rfl (notWritePc v)

/-! #### `DeviceIdExists` and `TooManyDevices` (60_exceptions R175) -/

/-- The two connection errors are among no instruction's errors. -/
theorem ExecError.not_connection {i : Instr} (cause : ExecError i s t k) :
    k ≠ .deviceIdExists ∧ k ≠ .tooManyDevices := by
  cases cause with
  | invalid | unregistered => simp
  | device kind => rcases kind with rfl | rfl | rfl <;> simp

/-- A configuration error is a failed selection or a failed connection. -/
theorem ConfigureError.connectDevice {c : CfgTxn} (cause : ConfigureError s c k) (other : k ≠ .deviceDoesNotExist) :
    ∃ d, c = .connectDevice d := by
  cases cause with
  | unregistered => exact absurd rfl other
  | idTaken | full => exact ⟨_, rfl⟩

theorem configure_error_registry {c : CfgTxn} (h : configure c s = .next t) (failed : t.result = .err k) :
    t.registry = s.registry := by
  obtain ⟨-, rfl⟩ := configure_error h failed
  rfl

/-- Settles O33: no instruction raises them, and of the configuration errors only a failed connection is one of them. -/
theorem connectionErrorsComeFromConnectDeviceOnly : Obligations.ConnectionErrorsComeFromConnectDeviceOnly := by
  refine ⟨fun w s t h => ⟨fun failed => ?_, fun failed => ?_⟩, fun c s t h failed => ?_⟩
  · exact (execute_error h failed).2.not_connection.1 rfl
  · exact (execute_error h failed).2.not_connection.2 rfl
  · rcases failed with failed | failed <;>
      exact ⟨(configure_error h failed).1.connectDevice (by simp), configure_error_registry h failed⟩

end Sys2Proof.Machine
end

section
/-! ### The encoder and the byte layout (30_encoding): O1, O3, O2, O8, O7

An instruction word is its four fields one after another, so two words are equal exactly when their fields are; each
round trip is then one fact about each field. -/

namespace Sys2Proof

/-! #### The fields of a word put together from its fields (30_encoding R81, R85) -/

section
variable (op : Byte) (d s : Nibble) (v : Word)

theorem operandByte_append : operandByte (op ++ d ++ s ++ v : InstrWord) = d ++ s := by
  refine BitVec.eq_of_getLsbD_eq fun i hi => ?_
  have field : BitVec.getLsbD (w := 8 + 4 + 4 + 16) (op ++ d ++ s ++ v) (16 + i) = (d ++ s).getLsbD i := by
    simp only [BitVec.getLsbD_append]
    grind
  rw [operandByte, BitVec.getLsbD_extractLsb', decide_eq_true hi, Bool.true_and]
  exact field

theorem dstNibble_append : dstNibble (d ++ s : Byte) = d := by
  refine BitVec.eq_of_toNat_eq ?_
  have := s.isLt
  rw [dstNibble_toNat, BitVec.toNat_append, ← Nat.shiftLeft_add_eq_or_of_lt s.isLt, Nat.shiftLeft_eq]
  omega

theorem srcNibble_append : srcNibble (d ++ s : Byte) = s := by
  refine BitVec.eq_of_toNat_eq ?_
  have := s.isLt
  rw [srcNibble_toNat, BitVec.toNat_append, ← Nat.shiftLeft_add_eq_or_of_lt s.isLt, Nat.shiftLeft_eq]
  omega

theorem immField_append : immField (op ++ d ++ s ++ v : InstrWord) = v := by
  refine BitVec.eq_of_getLsbD_eq fun i hi => ?_
  have field : BitVec.getLsbD (w := 8 + 4 + 4 + 16) (op ++ d ++ s ++ v) (0 + i) = v.getLsbD i := by
    rw [BitVec.getLsbD_append, if_pos (by omega), Nat.zero_add]
  rw [immField, BitVec.getLsbD_extractLsb', decide_eq_true hi, Bool.true_and]
  exact field

end

/-! #### Decode after encode (30_encoding R92) -/

theorem Instr.build_fields (i : Instr) : Instr.build i.opcode i.src i.dst i.imm = i := by cases i <;> rfl

/-- Settles O1: each field of the encoding is the code of the instruction's field, and decodes back to it. -/
theorem decodingAnEncodedInstructionGivesItBack : Obligations.DecodingAnEncodedInstructionGivesItBack := by
  intro i
  calc decode (encode i)
      = Instr.build (Opcode.ofByte i.opcode.code) (Sel.ofNibble i.src.code) (Sel.ofNibble i.dst.code) i.imm := by
        rw [decode, encode, Laws.opcodeRaw_append, operandByte_append, srcNibble_append, dstNibble_append,
          immField_append]
    _ = i := by rw [Laws.Opcode.ofByte_code, Sel.ofNibble_code, Sel.ofNibble_code, Instr.build_fields]

/-! #### Encode after decode (30_encoding R92) -/

/-- A word is its fields, one after another. -/
theorem fields_append (w : InstrWord) :
    (opcodeRaw w ++ dstNibble (operandByte w) ++ srcNibble (operandByte w) ++ immField w : InstrWord) = w := by
  refine BitVec.eq_of_getLsbD_eq fun i hi => ?_
  have fields : BitVec.getLsbD (w := 8 + 4 + 4 + 16)
      (opcodeRaw w ++ dstNibble (operandByte w) ++ srcNibble (operandByte w) ++ immField w) i = w.getLsbD i := by
    simp only [BitVec.getLsbD_append, opcodeRaw, dstNibble, srcNibble, operandByte, immField,
      BitVec.getLsbD_extractLsb']
    grind
  exact fields

theorem fields_append_inj {op op' : Byte} {d d' s s' : Nibble} {v v' : Word} :
    (op ++ d ++ s ++ v : InstrWord) = op' ++ d' ++ s' ++ v' ↔ op = op' ∧ d = d' ∧ s = s' ∧ v = v' := by
  refine ⟨fun h => ⟨?_, ?_, ?_, ?_⟩, ?_⟩
  · simpa only [Laws.opcodeRaw_append] using congrArg opcodeRaw h
  · simpa only [operandByte_append, dstNibble_append] using congrArg (fun w => dstNibble (operandByte w)) h
  · simpa only [operandByte_append, srcNibble_append] using congrArg (fun w => srcNibble (operandByte w)) h
  · simpa only [immField_append] using congrArg immField h
  · rintro ⟨rfl, rfl, rfl, rfl⟩
    rfl

/-- The opcode bytes that are codes are those of the table (30_encoding R83). -/
theorem Opcode.code_ofByte {b : Byte} : (Opcode.ofByte b).code = b ↔ b.toNat ≤ 7 := by
  constructor
  · intro h
    rw [← h]
    cases Opcode.ofByte b <;> decide
  · intro h
    refine BitVec.eq_of_toNat_eq ?_
    unfold Opcode.ofByte
    interval_cases b.toNat <;> rfl

/-- The selector nibbles that are codes are those of the table (30_encoding R84). -/
theorem Sel.code_ofNibble {n : Nibble} : (Sel.ofNibble n).code = n ↔ n.toNat ≤ 5 := by
  constructor
  · intro h
    rw [← h]
    cases Sel.ofNibble n with
    | none => decide
    | reg r => cases r <;> decide
    | imm => decide
  · intro h
    refine BitVec.eq_of_toNat_eq ?_
    unfold Sel.ofNibble
    interval_cases n.toNat <;> rfl

theorem decode_imm (w : InstrWord) : (decode w).imm = immField w := by
  unfold decode
  cases Opcode.ofByte (opcodeRaw w) <;> rfl

/-- Settles O3: the two words agree exactly when each of their fields does, and the immediate always does. -/
theorem aWordIsReencodedExactlyWhenNoCodeCollapses : Obligations.AWordIsReencodedExactlyWhenNoCodeCollapses := by
  intro w
  calc encode (decode w) = w
      ↔ encode (decode w) =
          opcodeRaw w ++ dstNibble (operandByte w) ++ srcNibble (operandByte w) ++ immField w := by
        rw [fields_append]
    _ ↔ _ := by
        rw [encode, fields_append_inj, decode_opcode, decode_dst, decode_src, decode_imm, Opcode.code_ofByte,
          Sel.code_ofNibble, Sel.code_ofNibble]
        tauto

/-! #### Bytes (30_encoding R82, R91) -/

/-- The four bytes of a word, put together in their order, are the word. -/
theorem bytes_append (w : InstrWord) :
    (w.extractLsb' 24 8 ++ w.extractLsb' 16 8 ++ w.extractLsb' 8 8 ++ w.extractLsb' 0 8 : InstrWord) = w := by
  refine BitVec.eq_of_getLsbD_eq fun i hi => ?_
  have bytes : BitVec.getLsbD (w := 8 + 8 + 8 + 8)
      (w.extractLsb' 24 8 ++ w.extractLsb' 16 8 ++ w.extractLsb' 8 8 ++ w.extractLsb' 0 8) i = w.getLsbD i := by
    simp only [BitVec.getLsbD_append, BitVec.getLsbD_extractLsb']
    grind
  exact bytes

/-- Settles O2: the decoder puts the four bytes together again (`bytes_append`). -/
theorem aSerializedWordIsReadBackWithItsRest : Obligations.ASerializedWordIsReadBackWithItsRest := by
  intro w rest
  calc decodeBytes (serialize w ++ rest)
      = .ok (decode (w.extractLsb' 24 8 ++ w.extractLsb' 16 8 ++ w.extractLsb' 8 8 ++ w.extractLsb' 0 8), rest) := rfl
    _ = .ok (decode w, rest) := by rw [bytes_append]

/-- Settles O8: the decoder answers as soon as there are four bytes, and has no other case. -/
theorem onlyShortByteStringsAreRejected : Obligations.OnlyShortByteStringsAreRejected := by
  intro bs
  match bs with
  | [] | [_] | [_, _] | [_, _, _] => exact iff_of_true ⟨.truncated, rfl⟩ (by simp)
  | _ :: _ :: _ :: _ :: rest => simp [decodeBytes]

/-- Settles O7: twelve closed words. -/
theorem writtenOutWordsDecodeToTheirInstructions : Obligations.WrittenOutWordsDecodeToTheirInstructions := by
  unfold Obligations.WrittenOutWordsDecodeToTheirInstructions
  decide

end Sys2Proof
end

section
/-! ### Reset, alignment, the form of a memory, and `connect_device`: O50, O59, O41, O45, O47, O48 -/

namespace Sys2Proof.Machine

open Sys2Proof

variable {s t : State}

/-! #### Reset (10_state R36, 70_reset_and_hazards R200) -/

theorem skipBit_append_zero (f : BitVec 15) : skipBit (f ++ 0#1) = false := by
  rw [skipBit, BitVec.getLsbD_append]
  rfl

theorem reservedFlags_append (f : BitVec 15) (b : BitVec 1) : reservedFlags (f ++ b) = f := by
  refine BitVec.eq_of_getLsbD_eq fun i hi => ?_
  have field : BitVec.getLsbD (w := 15 + 1) (f ++ b) (1 + i) = f.getLsbD i := by
    rw [BitVec.getLsbD_append, if_neg (by omega), Nat.add_sub_cancel_left]
  rw [reservedFlags, BitVec.getLsbD_extractLsb', decide_eq_true hi, Bool.true_and]
  exact field

theorem goodState_resetWith (p : Params) : GoodState (.resetWith p) where
  ids_nodup := List.nodup_nil
  devices_le := Nat.zero_le _
  active_registered := by intro id h; cases h
  devices_wf := by intro d h; cases h
  pending_wf := by intro c h; cases h
  reserved_reset := reservedFlags_append _ _
  prog_le := Nat.zero_le _

/-- Settles O50: nothing is connected, selected or loaded after reset, whatever the parameters. -/
theorem theResetStateMeetsTheInvariant : Obligations.TheResetStateMeetsTheInvariant :=
  ⟨goodState_resetWith {}, goodState_resetWith⟩

theorem readReg_resetWith (p : Params) (r : Reg) : (State.resetWith p).readReg r = p.regReset := by cases r <;> rfl

/-- Settles O59: the fields of `State.resetWith`, for every parameter and for the defaults. -/
theorem theResetStateIsAsTheSpecSays : Obligations.TheResetStateIsAsTheSpecSays :=
  ⟨fun p => ⟨rfl, rfl, skipBit_append_zero _, readReg_resetWith p, reservedFlags_append _ _, rfl, rfl⟩,
    fun _ _ => ⟨rfl, rfl⟩, skipBit_append_zero _, readReg_resetWith {}, rfl, rfl, rfl, fun _ _ => ⟨_, rfl, rfl⟩⟩

/-! #### Alignment (20_memory R53) -/

/-- The word at an aligned address does not wrap. -/
theorem align_succ_toNat (a : Word) : (align a + 1).toNat = (align a).toNat + 1 := by
  have := align_lt a
  rw [Config.ramBytes] at this
  rw [BitVec.toNat_add]
  exact Nat.mod_eq_of_lt this

theorem align_eq_align {a b : Word} : align a = align b ↔ a.toNat / 2 = b.toNat / 2 := by
  rw [← BitVec.toNat_inj, align_toNat, align_toNat]
  omega

/-- Settles O41: all of it is arithmetic on `2 * (a / 2)`. -/
theorem alignRoundsDownToAnEvenAddress : Obligations.AlignRoundsDownToAnEvenAddress := by
  intro a
  have noWrap := align_lt a
  rw [Config.ramBytes] at noWrap
  refine ⟨?_, ?_, by omega, align_succ_toNat a, ?_⟩
  · rw [align_toNat]
    omega
  · rw [align, BitVec.getLsbD_append]
    rfl
  · rw [align_eq_align, align_toNat]
    omega

/-! #### The canonical form of a memory (log 2) -/

/-- Above the same lower bound, a listed byte and the bytes after it are determined by what is read: the least address
that does not read as `Config.unlistedByte` is the first one listed. -/
theorem Memory.eq_of_readByte_eq {lo : Nat} {m m' : Memory} (hm : Memory.wfAbove lo m = true)
    (hm' : Memory.wfAbove lo m' = true) (same : ∀ a, a < Config.ramBytes → m.readByte a = m'.readByte a) : m = m' := by
  induction m generalizing lo m' with
  | nil =>
    match m' with
    | [] => rfl
    | (k, b) :: m' =>
      obtain ⟨-, hk, hb, -⟩ := Memory.wfAbove_cons.mp hm'
      have := same k hk
      simp only [Memory.readByte, if_true] at this
      exact absurd this.symm hb
  | cons c m ih =>
    obtain ⟨k, b⟩ := c
    obtain ⟨hlo, hk, hb, rest⟩ := Memory.wfAbove_cons.mp hm
    match m' with
    | [] =>
      have := same k hk
      simp only [Memory.readByte, if_true] at this
      exact absurd this hb
    | (k', b') :: m' =>
      obtain ⟨hlo', hk', hb', rest'⟩ := Memory.wfAbove_cons.mp hm'
      have first : k = k' := by
        rcases Nat.lt_trichotomy k k' with before | rfl | after
        · have below := Memory.readByte_below before (Memory.wfAbove_cons.mpr ⟨le_rfl, hk', hb', rest'⟩)
          have := same k hk
          rw [below, Memory.readByte, if_pos rfl] at this
          exact absurd this hb
        · rfl
        · have below := Memory.readByte_below after (Memory.wfAbove_cons.mpr ⟨le_rfl, hk, hb, rest⟩)
          have := same k' hk'
          rw [below, Memory.readByte, if_pos rfl] at this
          exact absurd this.symm hb'
      subst first
      have byte : b = b' := by simpa only [Memory.readByte, if_true] using same k hk
      subst byte
      rw [ih rest rest' fun a ha => ?_]
      by_cases hka : k = a
      · subst hka
        rw [Memory.readByte_below (Nat.lt_succ_self k) rest, Memory.readByte_below (Nat.lt_succ_self k) rest']
      · simpa only [Memory.readByte, if_neg hka] using same a ha

/-- Settles O45: `Memory.eq_of_readByte_eq` from the lower bound 0. -/
theorem memoriesWithTheSameBytesAreEqual : Obligations.MemoriesWithTheSameBytesAreEqual :=
  fun _ _ => Memory.eq_of_readByte_eq

/-! #### `connect_device` (20_memory R47) -/

/-- Connecting a device with a new id leaves every other lookup as it was. -/
theorem findDevice_append_singleton {ds : List Device} {d : Device} {id : Word} (other : id ≠ d.id) :
    findDevice (ds ++ [d]) id = findDevice ds id := by
  rw [findDevice_append, findDevice, if_neg (Ne.symm other), findDevice, Option.or_none]

/-- The device connected last is found when its id is new. -/
theorem findDevice_append_new {ds : List Device} {d : Device} (new : d.id ∉ ds.map Device.id) :
    findDevice (ds ++ [d]) d.id = some d := by
  rw [findDevice_append, findDevice_none.mpr new, findDevice, if_pos rfl, Option.none_or]

/-- Settles O47: the three outcomes of `connect_device`; each excludes the premises of the others. -/
theorem connectDeviceAppendsOrFails : Obligations.ConnectDeviceAppendsOrFails := by
  intro d s
  have driver : ∀ (ds : List Device) (r : TxnResult),
      KeepsDriver s { s with registry := ds, result := r, haltReq := false } := fun _ _ => ⟨rfl, rfl, rfl, rfl, rfl⟩
  rcases connectDevice_cases d s with ⟨full, he⟩ | ⟨room, taken, he⟩ | ⟨room, new, he⟩
  · exact ⟨_, he, fun _ => ⟨rfl, rfl⟩, by omega, by omega, fun _ => rfl, rfl, rfl, driver _ _, rfl⟩
  · exact ⟨_, he, by omega, fun _ _ => ⟨rfl, rfl⟩, fun _ new => absurd taken new, fun _ => rfl, rfl, rfl,
      driver _ _, rfl⟩
  · exact ⟨_, he, by omega, fun _ taken => absurd taken new,
      fun _ _ => ⟨rfl, rfl, fun id other => findDevice_append_singleton other, findDevice_append_new new⟩,
      fun _ => rfl, rfl, rfl, driver _ _, rfl⟩

/-- As many different words as there are words are all the words. -/
theorem mem_of_nodup_of_length {l : List Word} (nodup : l.Nodup) (full : 65536 ≤ l.length) (w : Word) : w ∈ l := by
  have card : (l.map BitVec.toNat).toFinset.card = l.length := by
    rw [List.toFinset_card_of_nodup (nodup.map fun _ _ => BitVec.eq_of_toNat_eq), List.length_map]
  have inRange : (l.map BitVec.toNat).toFinset ⊆ Finset.range 65536 := by
    intro n hn
    obtain ⟨v, -, rfl⟩ := List.mem_map.mp (List.mem_toFinset.mp hn)
    exact Finset.mem_range.mpr v.isLt
  have all := Finset.eq_of_subset_of_card_le inRange (by rw [card, Finset.card_range]; exact full)
  have hw : w.toNat ∈ (l.map BitVec.toNat).toFinset := all ▸ Finset.mem_range.mpr w.isLt
  obtain ⟨v, hv, same⟩ := List.mem_map.mp (List.mem_toFinset.mp hw)
  exact BitVec.eq_of_toNat_eq same ▸ hv

theorem State.ids_length (s : State) : s.ids.length = s.registry.length := List.length_map _

/-- Settles O48: the registry is at its bound, so it holds 65536 different ids, which are all there are. -/
theorem tooManyDevicesOnlyWhenEveryIdIsTaken : Obligations.TooManyDevicesOnlyWhenEveryIdIsTaken := by
  intro d s t good bound h failed
  rcases connectDevice_next h with ⟨full, rfl⟩ | ⟨-, -, rfl⟩ | ⟨-, -, rfl⟩
  · exact mem_of_nodup_of_length good.ids_nodup (by rw [State.ids_length]; omega)
  · cases failed
  · cases failed

end Sys2Proof.Machine
end

section
/-! ### The control and register instructions and the skip: O9, O14, O15, O17, O18, O19, O16 -/

namespace Sys2Proof.Machine

open Sys2Proof

variable {s t : State}

/-! #### What an operand that is not the immediate leaves unread (30_encoding R86, R89) -/

/-- The immediate matters to a source only where the source is the immediate. -/
theorem srcVal_congr_imm {src : Sel} {v v' : Word} (h : src = .imm → v = v') : srcVal src v s = srcVal src v' s := by
  cases src with
  | none => rfl
  | reg r => rfl
  | imm => exact h rfl

theorem addrVal_congr_imm {dst : Sel} {v v' : Word} (h : dst = .imm → v = v') : addrVal dst v s = addrVal dst v' s := by
  cases dst with
  | none => rfl
  | reg r => rfl
  | imm => exact congrArg some (h rfl)

/-- Settles O9: a meaning sees its immediate through `srcVal` and `addrVal` alone. -/
theorem fieldsAnInstructionDoesNotReadDoNotMatter : Obligations.FieldsAnInstructionDoesNotReadDoNotMatter := by
  intro i s
  have cleared : ∀ (src : Sel) (v : Word), srcVal src (if src = .imm then v else 0) s = srcVal src v s :=
    fun src v => srcVal_congr_imm fun h => if_pos h
  cases i with
  | invalid src dst v => rfl
  | nop src dst v => rfl
  | halt src dst v => rfl
  | set src dst v => simp only [canonical, exec, execSet, cleared]
  | selram src dst v => simp only [canonical, exec, execSelram, cleared]
  | load src dst v => simp only [canonical, exec, execLoad, cleared]
  | store src dst v =>
    have source : srcVal src (if src = .imm ∨ dst = .imm then v else 0) s = srcVal src v s :=
      srcVal_congr_imm fun h => if_pos (.inl h)
    have address : addrVal dst (if src = .imm ∨ dst = .imm then v else 0) s = addrVal dst v s :=
      addrVal_congr_imm fun h => if_pos (.inr h)
    simp only [canonical, exec, execStore, source, address]
  | add src dst v => simp only [canonical, exec, execAdd, cleared]

/-! #### Control instructions (41_control R130 to R132) -/

theorem Instr.eq_build {i : Instr} {op : Opcode} (h : i.opcode = op) : i = .build op i.src i.dst i.imm :=
  h ▸ (Instr.build_fields i).symm

theorem decode_opcode_invalid {w : InstrWord} (h : (opcodeRaw w).toNat = 0 ∨ 8 ≤ (opcodeRaw w).toNat) :
    (decode w).opcode = .invalid := by
  rcases h with zero | outOfRange
  · exact decode_opcode_of_code zero
  · rw [decode_opcode, Opcode.ofByte_out_of_range outOfRange]

/-- Settles O14: Invalid is `raise ProgramError`, which touches the outputs alone; a skipped one returns `Ok`. -/
theorem aDispatchedInvalidReturnsProgramError : Obligations.ADispatchedInvalidReturnsProgramError :=
  ⟨fun _ h => ⟨_, _, _, Instr.eq_build (decode_opcode_invalid h)⟩,
    fun _ _ _ s => ⟨s.raised .programError, rfl, ⟨rfl, rfl⟩, fun _ => rfl, rfl, rfl, rfl, keepsMemory_of_registry rfl,
      ⟨rfl, rfl, rfl, rfl, rfl⟩, rfl⟩,
    fun _ _ _ skipped => ⟨_, execute_skipped skipped, rfl⟩⟩

/-- Settles O15: NoOp writes `flags[0]` and the outputs alone. -/
theorem aDispatchedNopSetsTheSkipFlag : Obligations.ADispatchedNopSetsTheSkipFlag :=
  fun _ _ _ s => ⟨_, rfl, s.setSkip_skip, reservedFlags_withSkipSet _, fun _ => rfl, rfl, rfl,
    keepsMemory_of_registry rfl, ⟨rfl, rfl, rfl, rfl, rfl⟩, rfl, ⟨rfl, rfl⟩⟩

/-- Settles O17: Halt writes the outputs alone; a skipped one has `halt_req = 0`. -/
theorem aDispatchedHaltOnlyRaisesHaltReq : Obligations.ADispatchedHaltOnlyRaisesHaltReq :=
  ⟨fun _ _ _ _ => ⟨_, rfl, ⟨rfl, rfl⟩, fun _ => rfl, rfl, rfl, rfl, keepsMemory_of_registry rfl,
      ⟨rfl, rfl, rfl, rfl, rfl⟩, rfl⟩,
    fun _ _ _ skipped => ⟨_, execute_skipped skipped, rfl⟩⟩

/-! #### Register instructions (42_register R140, R141) -/

theorem exec_set_reg (src : Sel) (j : Reg) (imm : Word) (s : State) : exec (.set src (.reg j) imm) s =
    .next { s.writeReg j (srcVal src imm s) with result := .ok, haltReq := false } := rfl

theorem exec_add_reg (src : Sel) (j : Reg) (imm : Word) (s : State) : exec (.add src (.reg j) imm) s =
    .next { s.writeReg j (s.readReg j + srcVal src imm s) with result := .ok, haltReq := false } := rfl

theorem keepsRegs_of_regs (h : t.regs = s.regs) : KeepsRegs s t := fun r => by rw [State.readReg, h, State.readReg]

/-- A write of `x[j]` is the only difference between the register files. -/
theorem keepsRegsBut_of_regs {j : Reg} {v : Word} (h : t.regs = s.regs.write j v) : KeepsRegsBut j s t := by
  intro r other
  rw [State.readReg, h]
  exact RegFile.read_write_other _ _ other

theorem readReg_of_regs {j : Reg} {v : Word} (h : t.regs = s.regs.write j v) : t.readReg j = v := by
  rw [State.readReg, h, RegFile.read_write_same]

/-- Settles O18: Set writes its register and the outputs alone. -/
theorem setCopiesItsSourceToItsRegister : Obligations.SetCopiesItsSourceToItsRegister :=
  fun src j imm s => ⟨_, exec_set_reg src j imm s, readReg_of_regs rfl, keepsRegsBut_of_regs rfl, rfl, rfl, rfl,
    keepsMemory_of_registry rfl, ⟨rfl, rfl, rfl, rfl, rfl⟩, rfl, ⟨rfl, rfl⟩⟩

/-- Settles O19: Add writes its register and the outputs alone; the sum of words is the sum modulo 65536. -/
theorem addAddsItsSourceModulo65536 : Obligations.AddAddsItsSourceModulo65536 := by
  intro src j imm s
  refine ⟨_, exec_add_reg src j imm s, ?_, keepsRegsBut_of_regs rfl, rfl, rfl, rfl,
    keepsMemory_of_registry rfl, ⟨rfl, rfl, rfl, rfl, rfl⟩, rfl, ⟨rfl, rfl⟩⟩
  rw [readReg_of_regs rfl, BitVec.toNat_add]

/-! #### A run of NoOps (41_control R131, corner case 1) -/

/-- The flags after a word that decodes to NoOp: set if it was dispatched, cleared if it was skipped. -/
def flagsAfterNop (f : Word) : Word := if skipBit f then withSkipClear f else withSkipSet f

theorem skipBit_flagsAfterNop (f : Word) : skipBit (flagsAfterNop f) = !skipBit f := by
  unfold flagsAfterNop
  cases skipBit f <;> simp

theorem reservedFlags_flagsAfterNop (f : Word) : reservedFlags (flagsAfterNop f) = reservedFlags f := by
  unfold flagsAfterNop
  split
  · exact reservedFlags_withSkipClear f
  · exact reservedFlags_withSkipSet f

theorem execute_nop {w : InstrWord} (op : (decode w).opcode = .noOp) (s : State) :
    execute w s = .next { s with flags := flagsAfterNop s.flags, result := .ok, haltReq := false } := by
  have flag : skipBit s.flags = s.skip := rfl
  unfold flagsAfterNop
  rw [flag]
  cases hs : s.skip with
  | true => exact execute_skipped hs
  | false =>
    rw [execute_dispatched hs, Instr.eq_build op]
    rfl

/-- A run of NoOps, from either value of the flag, flips it once for each word and touches nothing else but outputs. -/
theorem runTxns_nops (ws : List InstrWord) (s : State) (nops : ∀ w ∈ ws, (decode w).opcode = .noOp) :
    ∃ f r h, runTxns (ws.map .execute) s = .next { s with flags := f, result := r, haltReq := h } ∧
      skipBit f = (skipBit s.flags ^^ decide (ws.length % 2 = 1)) ∧ reservedFlags f = reservedFlags s.flags := by
  induction ws generalizing s with
  | nil => exact ⟨s.flags, s.result, s.haltReq, rfl, by simp, rfl⟩
  | cons w ws ih =>
    obtain ⟨f, r, h, run, flag, rest⟩ :=
      ih { s with flags := flagsAfterNop s.flags, result := .ok, haltReq := false }
        fun v hv => nops v (List.mem_cons_of_mem _ hv)
    refine ⟨f, r, h, ?_, ?_, rest.trans (reservedFlags_flagsAfterNop _)⟩
    · simp only [List.map_cons, runTxns, transact, execute_nop (nops w List.mem_cons_self)]
      exact run
    · have parity : decide ((w :: ws).length % 2 = 1) = !decide (ws.length % 2 = 1) := by
        rw [List.length_cons, ← decide_not, decide_eq_decide]
        omega
      rw [flag, skipBit_flagsAfterNop, parity, Bool.not_xor, Bool.xor_not]

/-- Settles O16: `runTxns_nops` from a clear flag. -/
theorem aRunOfNopsLeavesTheFlagSetWhenItIsOdd : Obligations.ARunOfNopsLeavesTheFlagSetWhenItIsOdd := by
  intro ws s nops clear
  obtain ⟨f, r, h, run, flag, reserved⟩ := runTxns_nops ws s nops
  refine ⟨_, run, ?_, reserved, fun _ => rfl, rfl, rfl, keepsMemory_of_registry rfl, ⟨rfl, rfl, rfl, rfl, rfl⟩⟩
  rw [State.skip] at clear
  rw [State.skip, flag, clear, Bool.false_xor, decide_eq_true_iff]

end Sys2Proof.Machine
end

section
/-! ### The device instructions (43_device_access): O21, O44, O23, O24, O25, O20, O26

What Load and Store answer with a RAM device active is one equation each; the statements are readings of these two
equations, through the laws of `Memory.readWord` and `Memory.writeWord`. -/

namespace Sys2Proof.Machine

open Sys2Proof

variable {s t : State} {id : Word} {d : Device} {m : Memory}

/-! #### SelectRamDevice (43_device_access R150) -/

/-- Settles O21: the instruction is `select_ram_device` of its source, whose two outcomes are written out. -/
theorem selramSelectsARegisteredIdOrFails : Obligations.SelramSelectsARegisteredIdOrFails :=
  ⟨fun _ h => ⟨_, _, _, Instr.eq_build (decode_opcode_of_code (op := .selectRamDevice) h)⟩,
    fun _ _ _ _ registered => ⟨_, selectRamDevice_registered registered, rfl, fun _ => rfl, rfl, rfl,
      keepsMemory_of_registry rfl, ⟨rfl, rfl, rfl, rfl, rfl⟩, rfl, ⟨rfl, rfl⟩⟩,
    fun _ _ _ _ absent => ⟨_, selectRamDevice_unregistered absent, rfl, fun _ => rfl, rfl, rfl,
      keepsMemory_of_registry rfl, ⟨rfl, rfl, rfl, rfl, rfl⟩, rfl, ⟨rfl, rfl⟩⟩,
    fun _ _ _ _ _ => ⟨rfl, rfl⟩⟩

/-! #### The words of a backing array (20_memory R54, R60) -/

/-- A word is its high byte and its low byte. -/
theorem word_bytes_append (v : Word) : (v.extractLsb' 8 8 ++ v.extractLsb' 0 8 : Word) = v := by
  refine BitVec.eq_of_getLsbD_eq fun i hi => ?_
  have bytes : BitVec.getLsbD (w := 8 + 8) (v.extractLsb' 8 8 ++ v.extractLsb' 0 8) i = v.getLsbD i := by
    simp only [BitVec.getLsbD_append, BitVec.getLsbD_extractLsb']
    grind
  exact bytes

theorem Memory.readWord_congr {a b : Word} (h : align b = align a) (m : Memory) : m.readWord b = m.readWord a := by
  rw [Memory.readWord, h, Memory.readWord]

theorem Memory.readWord_writeWord_same (canonicalForm : m.wf = true) {a b : Word} (h : align b = align a) (v : Word) :
    (m.writeWord a v).readWord b = v := by
  rw [Memory.readWord_congr h, Memory.readWord, Memory.readByte_writeWord_high canonicalForm,
    Memory.readByte_writeWord_low canonicalForm, word_bytes_append]

/-- Words at different aligned addresses have no byte in common. -/
theorem Memory.readWord_writeWord_other (m : Memory) {a b : Word} (h : align b ≠ align a) (v : Word) :
    (m.writeWord a v).readWord b = m.readWord b := by
  have apart : (align b).toNat ≠ (align a).toNat := fun same => h (BitVec.eq_of_toNat_eq same)
  have evenA := align_toNat a
  have evenB := align_toNat b
  rw [Memory.readWord, Memory.readByte_writeWord_other m a v apart (by omega),
    Memory.readByte_writeWord_other m a v (by omega) (by omega), Memory.readWord]

theorem getLsbD_zero_eq (a : Word) : a.getLsbD 0 = decide (a.toNat % 2 = 1) := by
  rw [BitVec.getLsbD, Nat.testBit_zero]

theorem align_pred_of_odd {a : Word} (odd : a.getLsbD 0 = true) : align a = align (a - 1) := by
  rw [getLsbD_zero_eq, decide_eq_true_iff] at odd
  rw [align_eq_align]
  bv_omega

theorem align_succ_of_even {a : Word} (even : a.getLsbD 0 = false) : align a = align (a + 1) := by
  rw [getLsbD_zero_eq, decide_eq_false_iff_not] at even
  rw [align_eq_align]
  bv_omega

/-! #### What the driver sees of a RAM device (20_memory R63) -/

theorem Device.isRam_iff : d.isRam = true ↔ ∃ m, d.kind = .ram m := by
  unfold Device.isRam
  cases d.kind <;> simp

theorem Device.wf_ram (ram : d.kind = .ram m) : d.wf = m.wf := by simp only [Device.wf, ram]

theorem State.readByte_ram (dev : s.dev id = some d) (ram : d.kind = .ram m) (a : Word) :
    s.readByte id a = some (m.readByte a.toNat) := by
  simp only [State.readByte, dev, ram]

theorem State.readByte_ram_succ (dev : s.dev id = some d) (ram : d.kind = .ram m) (a : Word) :
    s.readByte id (align a + 1) = some (m.readByte ((align a).toNat + 1)) := by
  rw [State.readByte_ram dev ram, align_succ_toNat]

theorem State.readByte_congr (h : t.dev id = s.dev id) (a : Word) : t.readByte id a = s.readByte id a := by
  rw [State.readByte, h, State.readByte]

theorem State.dev_putDevice_same {e : Device} (dev : s.dev id = some d) (same : e.id = d.id) :
    (s.putDevice e).dev id = some e := by
  have hid : d.id = id := findDevice_id dev
  subst hid
  rw [← same] at dev ⊢
  exact findDevice_replace_same dev

theorem State.dev_putDevice_other {e : Device} (other : id ≠ e.id) : (s.putDevice e).dev id = s.dev id :=
  findDevice_replace_other other

/-! #### Load and Store with a RAM device active (43_device_access R151, R152) -/

theorem State.countDraw_of_ram (ram : d.kind = .ram m) (s : State) : s.countDraw d = s := by
  simp only [State.countDraw, ram]

/-- A device after the word write of R59. -/
def Device.stored (d : Device) (m : Memory) (a v : Word) : Device := { d with kind := .ram (m.writeWord a v) }

section
variable (act : s.active = some id) (dev : s.dev id = some d) (ram : d.kind = .ram m)
include act dev ram

theorem memRead_ram (a : Word) : memRead a s = .done (m.readWord a) s := by
  rw [memRead_active act dev, Device.primary_ram ram, State.countDraw_of_ram ram, readAnswer]

theorem memWrite_ram (a v : Word) : memWrite a v s = .done () (s.putDevice (d.stored m a v)) := by
  rw [memWrite_active act dev, Device.secondary_ram ram, State.countDraw_of_ram ram, writeAnswer, Device.stored]

theorem exec_load_ram (src : Sel) (j : Reg) (imm : Word) : exec (.load src (.reg j) imm) s =
    .next { s.writeReg j (m.readWord (srcVal src imm s)) with result := .ok, haltReq := false } := by
  simp only [exec, execLoad, dstReg, memRead_ram act dev ram]
  rfl

theorem exec_store_ram {dst : Sel} {imm a : Word} (adr : addrVal dst imm s = some a) (src : Sel) :
    exec (.store src dst imm) s =
      .next { s.putDevice (d.stored m a (srcVal src imm s)) with result := .ok, haltReq := false } := by
  simp only [exec, execStore, adr, memWrite_ram act dev ram]
  rfl

end

/-! #### The laws of a RAM device (20_memory R60) -/

/-- Settles O44: the laws of the word operations, and two Loads of one word, neither of which puts a device back. -/
theorem theRamDeviceObeysItsLaws : Obligations.TheRamDeviceObeysItsLaws := by
  refine ⟨fun m a b v canonicalForm => ⟨fun same => Memory.readWord_writeWord_same canonicalForm same v,
      fun other => Memory.readWord_writeWord_other m other v,
      fun odd => Memory.readWord_congr (align_pred_of_odd odd) m,
      fun even => Memory.readWord_congr (align_succ_of_even even) m⟩, ?_⟩
  intro src src' j j' imm imm' id d s t act dev isRam h
  obtain ⟨m, ram⟩ := Device.isRam_iff.mp isRam
  rw [exec_load_ram act dev ram] at h
  cases h
  have again := exec_load_ram
    (s := { s.writeReg j (m.readWord (srcVal src imm s)) with result := .ok, haltReq := false })
    act dev ram src' j' imm'
  refine ⟨keepsMemory_of_registry rfl, fun same => ⟨_, again, ?_, keepsMemory_of_registry rfl⟩⟩
  rw [readReg_of_regs rfl, readReg_of_regs rfl, Memory.readWord_congr same]

/-! #### Load (43_device_access R151) -/

/-- Settles O23: the equation of Load; the two bytes of the word it reads are those the driver sees. -/
theorem loadReadsTheAlignedWordBigEndian : Obligations.LoadReadsTheAlignedWordBigEndian := by
  intro src j imm id d s act dev isRam
  obtain ⟨m, ram⟩ := Device.isRam_iff.mp isRam
  exact ⟨_, _, _, exec_load_ram act dev ram src j imm, State.readByte_ram dev ram _, State.readByte_ram_succ dev ram _,
    readReg_of_regs rfl, keepsRegsBut_of_regs rfl, rfl, rfl, rfl, keepsMemory_of_registry rfl,
    ⟨rfl, rfl, rfl, rfl, rfl⟩, rfl, ⟨rfl, rfl⟩⟩

/-! #### Store (43_device_access R152) -/

/-- The bytes of all devices after a word is stored in a RAM device. -/
theorem State.readByte_stored (dev : s.dev id = some d) (ram : d.kind = .ram m) (canonicalForm : d.wf = true)
    (a v : Word) (written : t.registry = (s.putDevice (d.stored m a v)).registry) :
    t.readByte id (align a) = some (v.extractLsb' 8 8) ∧ t.readByte id (align a + 1) = some (v.extractLsb' 0 8) ∧
      KeepsMemoryBut id a s t := by
  have lookup : ∀ id', t.dev id' = (s.putDevice (d.stored m a v)).dev id' := fun id' => by
    rw [State.dev, written, State.dev]
  have devAfter : t.dev id = some (d.stored m a v) :=
    (lookup id).trans (State.dev_putDevice_same dev rfl)
  rw [Device.wf_ram ram] at canonicalForm
  refine ⟨?_, ?_, fun id' b outside => ?_⟩
  · rw [State.readByte_ram devAfter rfl, Memory.readByte_writeWord_high canonicalForm]
  · rw [State.readByte_ram_succ devAfter rfl, Memory.readByte_writeWord_low canonicalForm]
  · by_cases hid : id' = id
    · subst hid
      obtain ⟨notHigh, notLow⟩ := outside.resolve_left fun other => other rfl
      rw [State.readByte_ram devAfter rfl, State.readByte_ram dev ram, Memory.readByte_writeWord_other]
      · exact fun same => notHigh (BitVec.eq_of_toNat_eq same)
      · exact fun same => notLow (BitVec.eq_of_toNat_eq (same.trans (align_succ_toNat a).symm))
    · have sameId : d.id = id := findDevice_id dev
      have otherDevice : id' ≠ (d.stored m a v).id := fun same => hid (same.trans sameId)
      exact State.readByte_congr ((lookup id').trans (State.dev_putDevice_other otherDevice)) b

/-- Putting back a device with its id and type kept leaves the devices the same. -/
theorem keepsDevices_putDevice {e : Device} (dev : s.dev id = some d) (same : e.id = d.id) (type : e.isRam = d.isRam)
    (written : t.registry = (s.putDevice e).registry) : KeepsDevices s t := by
  have found : findDevice s.registry e.id = some d := by rw [same, findDevice_id dev]; exact dev
  constructor
  · rw [State.ids, written]
    exact replaceDevice_ids _ _
  · rw [written]
    exact replaceDevice_isRam found type

/-- Settles O24: the equation of Store, and the bytes after it (`State.readByte_stored`). -/
theorem storeWritesTheAlignedWordBigEndian : Obligations.StoreWritesTheAlignedWordBigEndian := by
  intro src dst imm id a d s act dev isRam canonicalForm adr
  obtain ⟨m, ram⟩ := Device.isRam_iff.mp isRam
  obtain ⟨high, low, others⟩ := State.readByte_stored dev ram canonicalForm a (srcVal src imm s)
    (t := { s.putDevice (d.stored m a (srcVal src imm s)) with result := .ok, haltReq := false }) rfl
  exact ⟨_, exec_store_ram act dev ram adr src, high, low, others, fun _ => rfl, rfl, rfl,
    keepsDevices_putDevice (e := d.stored m a (srcVal src imm s)) dev rfl isRam.symm rfl,
    ⟨rfl, rfl, rfl, rfl, rfl⟩, rfl, ⟨rfl, rfl⟩⟩

/-- Settles O25: the Load finds the device as the Store left it, and reads the word it wrote. -/
theorem aLoadAfterAStoreReturnsTheStoredWord : Obligations.ALoadAfterAStoreReturnsTheStoredWord := by
  intro src dst src' j imm imm' id a d s t act dev isRam canonicalForm adr h same
  obtain ⟨m, ram⟩ := Device.isRam_iff.mp isRam
  rw [Device.wf_ram ram] at canonicalForm
  rw [exec_store_ram act dev ram adr] at h
  cases h
  have devAfter := State.dev_putDevice_same (e := d.stored m a (srcVal src imm s)) dev rfl
  refine ⟨_, exec_load_ram
    (s := { s.putDevice (d.stored m a (srcVal src imm s)) with result := .ok, haltReq := false })
    act devAfter rfl src' j imm', ?_⟩
  rw [readReg_of_regs rfl, Memory.readWord_writeWord_same canonicalForm same]

/-! #### One register as source and destination (40_execute_step R116) -/

/-- Settles O20: in each equation the operands are read in the state at the start. -/
theorem anAliasedRegisterIsReadBeforeItIsWritten : Obligations.AnAliasedRegisterIsReadBeforeItIsWritten := by
  refine ⟨fun j imm s => ⟨_, exec_add_reg (.reg j) j imm s, ?_⟩, fun j imm id d s act dev isRam => ?_,
    fun j imm id d s act dev isRam canonicalForm => ?_⟩
  · rw [readReg_of_regs rfl, srcVal_reg, BitVec.toNat_add, Nat.two_mul]
  · obtain ⟨m, ram⟩ := Device.isRam_iff.mp isRam
    exact ⟨_, _, _, exec_load_ram act dev ram (.reg j) j imm, State.readByte_ram dev ram _,
      State.readByte_ram_succ dev ram _, readReg_of_regs rfl⟩
  · obtain ⟨m, ram⟩ := Device.isRam_iff.mp isRam
    obtain ⟨high, low, -⟩ := State.readByte_stored dev ram canonicalForm (s.readReg j) (s.readReg j)
      (t := { s.putDevice (d.stored m (s.readReg j) (s.readReg j)) with result := .ok, haltReq := false }) rfl
    exact ⟨_, exec_store_ram act dev ram (dst := .reg j) rfl (.reg j), high, low, fun _ => rfl⟩

/-! #### Abstract devices (20_memory R51, R61, R62, D14) -/

theorem Device.isRam_eq_false_iff : d.isRam = false ↔ d.kind = .other := by
  unfold Device.isRam
  cases d.kind <;> simp

section
variable (act : s.active = some id) (dev : s.dev id = some d) (abstract : d.isRam = false)
include act dev abstract

theorem exec_load_other (src : Sel) (j : Reg) (imm : Word) : exec (.load src (.reg j) imm) s =
    (readAnswer (Config.otherPrimary s.draws id (srcVal src imm s)) (s.countDraw d)).andThen
      fun v t => returnOk (t.writeReg j v) := by
  simp only [exec, execLoad, dstReg, memRead_active act dev, Device.primary, Device.isRam_eq_false_iff.mp abstract,
    findDevice_id dev]

theorem exec_store_other {dst : Sel} {imm a : Word} (adr : addrVal dst imm s = some a) (src : Sel) :
    exec (.store src dst imm) s =
      (writeAnswer (Config.otherSecondary s.draws id a (srcVal src imm s)) (s.countDraw d)).andThen
        fun _ t => returnOk t := by
  simp only [exec, execStore, adr, memWrite_active act dev, Device.secondary, Device.isRam_eq_false_iff.mp abstract,
    findDevice_id dev, State.putDevice_self dev]

end

theorem raise_failureKind (k : DevFailure) (s : State) :
    raise (failureKind k) s = .next (s.raised (failureKind k)) := by
  cases k <;> rfl

/-- Counting a drawn answer keeps the driver's state and the devices. -/
theorem keepsDriver_countDraw (s : State) (d : Device) (r : TxnResult) (h : Bool) :
    KeepsDriver s { s.countDraw d with result := r, haltReq := h } :=
  ⟨s.countDraw_pc d, s.countDraw_prog d, s.countDraw_pending d, s.countDraw_outcome d, s.countDraw_params d⟩

theorem keepsDevices_of_registry (h : t.registry = s.registry) : KeepsDevices s t := by
  constructor
  · rw [State.ids, h, State.ids]
  · rw [h]

/-- Settles O26: the answers of the two equations, one by one. -/
theorem anAbstractDevicesAnswersPropagate : Obligations.AnAbstractDevicesAnswersPropagate := by
  constructor
  · intro src j imm id d s act dev abstract
    rw [exec_load_other act dev abstract]
    cases Config.otherPrimary s.draws id (srcVal src imm s) with
    | data v =>
      exact ⟨_, rfl, ⟨rfl, readReg_of_regs rfl, keepsRegsBut_of_regs (congrArg (·.write j v) (s.countDraw_regs d))⟩,
        s.countDraw_flags d, s.countDraw_active d, s.countDraw_registry d,
        keepsMemory_of_registry (s.countDraw_registry d), keepsDriver_countDraw s d .ok false⟩
    | noOutput =>
      exact ⟨_, rfl, ⟨rfl, keepsRegs_of_regs (s.countDraw_regs d)⟩, s.countDraw_flags d, s.countDraw_active d,
        s.countDraw_registry d, keepsMemory_of_registry (s.countDraw_registry d), keepsDriver_countDraw s d _ false⟩
    | fail k =>
      exact ⟨_, raise_failureKind k _, ⟨rfl, keepsRegs_of_regs (s.countDraw_regs d)⟩, s.countDraw_flags d,
        s.countDraw_active d, s.countDraw_registry d, keepsMemory_of_registry (s.countDraw_registry d),
        keepsDriver_countDraw s d _ false⟩
  · intro src dst imm id a d s act dev abstract adr
    rw [exec_store_other act dev abstract adr]
    have frame : ∀ r h, KeepsRegs s { s.countDraw d with result := r, haltReq := h } ∧
        (s.countDraw d).flags = s.flags ∧ (s.countDraw d).active = s.active ∧
        KeepsMemory s { s.countDraw d with result := r, haltReq := h } ∧
        KeepsDevices s { s.countDraw d with result := r, haltReq := h } ∧
        KeepsDriver s { s.countDraw d with result := r, haltReq := h } := fun r h =>
      ⟨keepsRegs_of_regs (s.countDraw_regs d), s.countDraw_flags d, s.countDraw_active d,
        keepsMemory_of_registry (s.countDraw_registry d), keepsDevices_of_registry (s.countDraw_registry d),
        keepsDriver_countDraw s d r h⟩
    cases Config.otherSecondary s.draws id a (srcVal src imm s) with
    | data v => exact ⟨_, rfl, rfl, frame .ok false⟩
    | noOutput => exact ⟨_, rfl, rfl, frame .ok false⟩
    | fail k => exact ⟨_, raise_failureKind k _, rfl, frame (.err (failureKind k)) false⟩

end Sys2Proof.Machine
end

section
/-! ### Which instruction stops, fails or completes (60_exceptions): O27, O28, O29, O30

A dispatched instruction stops for one of three causes, read off its selectors and the selection; otherwise it
answers. -/

namespace Sys2Proof.Machine

open Sys2Proof

variable {i : Instr} {s t : State}

/-! #### The instructions with a bad destination, and those that access the active device -/

theorem Sel.isReg_eq_false_iff {d : Sel} : d.isReg = false ↔ ∀ r, d ≠ .reg r := by
  cases d <;> simp [Sel.isReg]

theorem Sel.isReg_iff {d : Sel} : d.isReg = true ↔ ∃ r, d = .reg r := by
  cases d <;> simp [Sel.isReg]

theorem Sel.isRegOrImm_eq_false_iff {d : Sel} : d.isRegOrImm = false ↔ d = .none := by
  cases d <;> simp [Sel.isRegOrImm]

theorem violatesContract_iff : violatesContract i = true ↔
    ((i.opcode = .set ∨ i.opcode = .load ∨ i.opcode = .add) ∧ ∀ r, i.dst ≠ .reg r) ∨
    (i.opcode = .store ∧ i.dst = .none) := by
  cases i <;>
    simp [violatesContract, Instr.opcode, Instr.dst, Sel.isReg_eq_false_iff, Sel.isRegOrImm_eq_false_iff]

theorem accessesRam_iff : accessesRam i = true ↔ i.opcode = .load ∨ i.opcode = .store := by
  cases i <;> simp [accessesRam, Instr.opcode]

/-- The accesses with a good destination. -/
theorem goodAccess_iff : violatesContract i = false ∧ accessesRam i = true ↔
    (i.opcode = .load ∧ ∃ r, i.dst = .reg r) ∨ (i.opcode = .store ∧ i.dst ≠ .none) := by
  rw [← Bool.not_eq_true, violatesContract_iff, accessesRam_iff]
  cases hop : i.opcode <;> simp

/-! #### The three ways to stop, and the answer in all other cases (60_exceptions R173, R174, R182) -/

theorem exec_of_violatesContract (bad : violatesContract i = true) (s : State) :
    exec i s = raise .contractViolation s := by
  cases i with
  | invalid src dst imm => cases bad
  | nop src dst imm => cases bad
  | halt src dst imm => cases bad
  | selram src dst imm => cases bad
  | set src dst imm | load src dst imm | add src dst imm =>
    have noReg : dstReg dst = none := dstReg_none.mpr (by simpa [violatesContract] using bad)
    simp only [exec, execSet, execLoad, execAdd, noReg]
  | store src dst imm =>
    have noAddr : addrVal dst imm s = none :=
      addrVal_none.mpr (Sel.isRegOrImm_eq_false_iff.mp (by simpa [violatesContract] using bad))
    simp only [exec, execStore, noAddr]

/-- The destination register of a Set, Load or Add that keeps the contract. -/
theorem exists_reg_of_not_violates {dst : Sel} (good : (!dst.isReg) = false) : ∃ j, dst = .reg j :=
  Sel.isReg_iff.mp (by simpa using good)

/-- The address of a Store that keeps the contract. -/
theorem exists_addr_of_not_violates {dst : Sel} {imm : Word} (good : (!dst.isRegOrImm) = false) (s : State) :
    ∃ a, addrVal dst imm s = some a :=
  Option.ne_none_iff_exists'.mp fun none => by
    simp [Sel.isRegOrImm_eq_false_iff.mpr (addrVal_none.mp none)] at good

theorem exec_of_early_access (good : violatesContract i = false) (access : accessesRam i = true)
    (early : s.active = none) : exec i s = raise .noActiveRamDevice s := by
  have noDevice : activeDevice s = .err .noActiveRamDevice s := by rw [activeDevice, early]
  cases i with
  | load src dst imm =>
    obtain ⟨j, rfl⟩ := exists_reg_of_not_violates good
    simp only [exec, execLoad, dstReg, memRead, noDevice, Access.andThen]
  | store src dst imm =>
    obtain ⟨a, adr⟩ := exists_addr_of_not_violates (imm := imm) good s
    simp only [exec, execStore, adr, memWrite, noDevice, Access.andThen]
  | invalid src dst imm | nop src dst imm | halt src dst imm | set src dst imm | selram src dst imm
  | add src dst imm => cases access

/-- An access to a device that is there answers, whatever the device does. -/
theorem andThen_readAnswer_answers (r : DevAnswer) (s : State) {f : Word → State → State} :
    ∃ t, ((readAnswer r s).andThen fun v u => returnOk (f v u)) = .next t := by
  rcases readAnswer_cases r s with ⟨v, -, he⟩ | ⟨k, h1, h2, -, he⟩ <;> rw [he]
  · exact ⟨_, rfl⟩
  · exact ⟨_, raise_next.mpr ⟨h1, h2, rfl⟩⟩

theorem andThen_writeAnswer_answers (r : DevAnswer) (s : State) :
    ∃ t, ((writeAnswer r s).andThen fun _ u => returnOk u) = .next t := by
  rcases writeAnswer_cases r s with ⟨-, he⟩ | ⟨k, -, h1, h2, he⟩ <;> rw [he]
  · exact ⟨_, rfl⟩
  · exact ⟨_, raise_next.mpr ⟨h1, h2, rfl⟩⟩

theorem selectRamDevice_answers (id : Word) (s : State) : ∃ t, selectRamDevice id s = .next t := by
  rcases selectRamDevice_cases id s with ⟨-, he⟩ | ⟨d, -, he⟩ <;> exact ⟨_, he⟩

/-- With a good destination, and the device there for an access, an instruction answers. -/
theorem exec_answers (good : violatesContract i = false)
    (ready : accessesRam i = true → ∃ id d, s.active = some id ∧ s.dev id = some d) : ∃ t, exec i s = .next t := by
  cases i with
  | invalid src dst imm => exact ⟨_, rfl⟩
  | nop src dst imm => exact ⟨_, rfl⟩
  | halt src dst imm => exact ⟨_, rfl⟩
  | set src dst imm =>
    obtain ⟨j, rfl⟩ := exists_reg_of_not_violates good
    exact ⟨_, exec_set_reg src j imm s⟩
  | selram src dst imm => exact selectRamDevice_answers _ s
  | load src dst imm =>
    obtain ⟨j, rfl⟩ := exists_reg_of_not_violates good
    obtain ⟨id, d, act, dev⟩ := ready rfl
    simp only [exec, execLoad, dstReg, memRead_active act dev]
    exact andThen_readAnswer_answers _ _
  | store src dst imm =>
    obtain ⟨a, adr⟩ := exists_addr_of_not_violates (imm := imm) good s
    obtain ⟨id, d, act, dev⟩ := ready rfl
    simp only [exec, execStore, adr, memWrite_active act dev]
    exact andThen_writeAnswer_answers _ _
  | add src dst imm =>
    obtain ⟨j, rfl⟩ := exists_reg_of_not_violates good
    exact ⟨_, exec_add_reg src j imm s⟩

/-- The causes of the three faults. -/
inductive ExecFault (i : Instr) (s : State) : Fault → Prop where
  | contract (bad : violatesContract i = true) : ExecFault i s .contractViolation
  | early (good : violatesContract i = false) (access : accessesRam i = true) (early : s.active = none) :
    ExecFault i s .noActiveRamDevice
  | unregistered (id : Word) (act : s.active = some id) (absent : s.dev id = none) :
    ExecFault i s .activeNotRegistered

theorem exec_fault {f : Fault} (h : exec i s = .fault f) : ExecFault i s f := by
  cases bad : violatesContract i with
  | true =>
    rw [exec_of_violatesContract bad] at h
    cases h
    exact .contract bad
  | false =>
    by_cases ready : accessesRam i = true → ∃ id d, s.active = some id ∧ s.dev id = some d
    · obtain ⟨t, answers⟩ := exec_answers bad ready
      rw [answers] at h
      cases h
    · obtain ⟨access, notReady⟩ := Classical.not_imp.mp ready
      rcases activeDevice_cases s with ⟨early, -⟩ | ⟨id, act, absent, stop⟩ | ⟨id, d, act, dev, -⟩
      · rw [exec_of_early_access bad access early] at h
        cases h
        exact .early bad access early
      · have only : f = .activeNotRegistered := by
          cases i with
          | load src dst imm =>
            obtain ⟨j, rfl⟩ := exists_reg_of_not_violates bad
            simpa [exec, execLoad, dstReg, memRead, stop, Access.andThen, eq_comm] using h
          | store src dst imm =>
            obtain ⟨a, adr⟩ := exists_addr_of_not_violates (imm := imm) bad s
            simpa [exec, execStore, adr, memWrite, stop, Access.andThen, eq_comm] using h
          | invalid | nop | halt | set | selram | add => cases access
        exact only ▸ .unregistered id act absent
      · exact absurd ⟨id, d, act, dev⟩ notReady

/-- Settles O27: the cause of the fault, and what the cause comes to for each opcode. -/
theorem contractViolationIsTheFaultOfABadDestination : Obligations.ContractViolationIsTheFaultOfABadDestination := by
  intro i s
  rw [← violatesContract_iff]
  refine ⟨fun h => ?_, fun bad => exec_of_violatesContract bad s⟩
  cases exec_fault h with
  | contract bad => exact bad

/-- Settles O28: the cause of the fault, and what the cause comes to for each opcode. -/
theorem noActiveRamDeviceIsTheFaultOfAnEarlyAccess : Obligations.NoActiveRamDeviceIsTheFaultOfAnEarlyAccess := by
  intro i s
  rw [← goodAccess_iff]
  refine ⟨fun h => ?_, fun ⟨early, good, access⟩ => exec_of_early_access good access early⟩
  cases exec_fault h with
  | early good access early => exact ⟨early, good, access⟩

/-! #### Legal instructions (30_encoding R88, 60_exceptions R173) -/

theorem violatesContract_of_wellFormed (legal : i.wellFormed = true) : violatesContract i = false := by
  cases i with
  | invalid src dst imm => rfl
  | nop src dst imm => rfl
  | halt src dst imm => rfl
  | selram src dst imm => rfl
  | set src dst imm | load src dst imm | store src dst imm | add src dst imm =>
    exact congrArg not (Bool.and_eq_true_iff.mp legal).2

/-- The selected device is there in a good state (20_memory R50). -/
theorem GoodState.active_dev (good : GoodState s) (selected : s.active ≠ none) :
    ∃ id d, s.active = some id ∧ s.dev id = some d := by
  obtain ⟨id, act⟩ := Option.ne_none_iff_exists'.mp selected
  obtain ⟨d, dev⟩ := State.mem_ids.mp (good.active_registered id act)
  exact ⟨id, d, act, dev⟩

/-- Settles O29: a legal destination is good, and a good state has its selected device. -/
theorem legalInstructionsComplete : Obligations.LegalInstructionsComplete :=
  fun _ _ legal good selected => exec_answers (violatesContract_of_wellFormed legal) fun access =>
    good.active_dev (selected (accessesRam_iff.mp access))

/-! #### The order of priority (60_exceptions R182) -/

/-- Of the instructions other than Invalid and SelectRamDevice only an access to an abstract device can fail. -/
theorem ExecEffect.ok (effect : ExecEffect i s t) (notInvalid : i.opcode ≠ .invalid)
    (notSelram : i.opcode ≠ .selectRamDevice)
    (activeRam : ∀ id d, s.active = some id → s.dev id = some d → d.isRam = true) : t.result = .ok := by
  cases effect with
  | programError op => exact absurd op notInvalid
  | notRegistered op absent => exact absurd op notSelram
  | deviceError op id d act dev notRam => rw [activeRam id d act dev] at notRam; cases notRam
  | setSkip | halt | writeReg | select | load | store => rfl

/-- Settles O30: each condition of the order decides the outcome where the ones before it do not hold. -/
theorem errorsAreTestedInTheOrderOfPriority : Obligations.ErrorsAreTestedInTheOrderOfPriority := by
  intro w s
  refine ⟨execute_skipped, fun go op => ?_, fun go bad => ?_, fun go good access early => ?_, fun go op absent => ?_,
    fun t go notInvalid notSelram activeRam h => ?_⟩
  · rw [execute_dispatched go, exec_of_invalid op]
  · rw [execute_dispatched go, exec_of_violatesContract bad]
  · rw [execute_dispatched go, exec_of_early_access good access early]
  · rw [execute_dispatched go, exec_of_selram op, selectRamDevice_unregistered absent]
    rfl
  · rw [execute_dispatched go] at h
    exact (exec_effect h).ok notInvalid notSelram activeRam

end Sys2Proof.Machine
end

section
/-! ### What an `execute` and a configuration transaction change (40_execute_step R118): O34, O35, O36

What each effect of an instruction does to one part of the state, a lemma for each part. -/

namespace Sys2Proof.Machine

open Sys2Proof

variable {i : Instr} {s t : State} {w : InstrWord} {c : CfgTxn}

/-! #### A dispatched instruction, part by part -/

theorem ExecEffect.keepsDriver (effect : ExecEffect i s t) : KeepsDriver s t := by
  cases effect with
  | programError | setSkip | halt | writeReg | notRegistered | select => exact ⟨rfl, rfl, rfl, rfl, rfl⟩
  | load _ _ d | deviceError _ _ d => exact keepsDriver_countDraw s d .ok false
  | store _ _ d => exact keepsDriver_countDraw (s.putDevice _) d .ok false

theorem ExecEffect.registry (effect : ExecEffect i s t) : t.registry = s.registry ∨ i.opcode = .store := by
  cases effect with
  | programError | setSkip | halt | writeReg | notRegistered | select => exact .inl rfl
  | load _ _ d | deviceError _ _ d => exact .inl (s.countDraw_registry d)
  | store op => exact .inr op

theorem ExecEffect.keepsDevices (effect : ExecEffect i s t) : KeepsDevices s t := by
  cases effect with
  | programError | setSkip | halt | writeReg | notRegistered | select => exact keepsDevices_of_registry rfl
  | load _ _ d | deviceError _ _ d => exact keepsDevices_of_registry (s.countDraw_registry d)
  | store _ id d _ dev a =>
    obtain ⟨sameId, sameType⟩ := d.secondary_header s.draws a (srcVal i.src i.imm s)
    exact keepsDevices_putDevice dev sameId sameType (State.countDraw_registry _ d)

theorem ExecEffect.flags (effect : ExecEffect i s t) :
    t.flags = s.flags ∨ (i.opcode = .noOp ∧ t.flags = withSkipSet s.flags) := by
  cases effect with
  | programError | halt | writeReg | notRegistered | select => exact .inl rfl
  | setSkip op => exact .inr ⟨op, rfl⟩
  | load _ _ d | deviceError _ _ d => exact .inl (s.countDraw_flags d)
  | store _ _ d => exact .inl (State.countDraw_flags _ d)

theorem ExecEffect.reservedFlags (effect : ExecEffect i s t) :
    reservedFlags t.flags = Machine.reservedFlags s.flags := by
  rcases effect.flags with same | ⟨-, set⟩
  · rw [same]
  · rw [set, reservedFlags_withSkipSet]

theorem ExecEffect.active (effect : ExecEffect i s t) : t.active = s.active ∨
    (i.opcode = .selectRamDevice ∧ ∃ id, id ∈ s.ids ∧ t.active = some id) := by
  cases effect with
  | programError | setSkip | halt | writeReg | notRegistered => exact .inl rfl
  | select op d dev => exact .inr ⟨op, _, State.mem_ids.mpr ⟨d, dev⟩, rfl⟩
  | load _ _ d | deviceError _ _ d => exact .inl (s.countDraw_active d)
  | store _ _ d => exact .inl (State.countDraw_active _ d)

theorem ExecEffect.regs (effect : ExecEffect i s t) :
    t.regs = s.regs ∨ ∃ j v, writtenReg i = some j ∧ t.regs = s.regs.write j v := by
  cases effect with
  | programError | setSkip | halt | notRegistered | select => exact .inl rfl
  | writeReg _ j v dst => exact .inr ⟨j, v, dst, rfl⟩
  | load _ _ d _ _ j v dst => exact .inr ⟨j, v, dst, congrArg (·.write j v) (s.countDraw_regs d)⟩
  | deviceError _ _ d => exact .inl (s.countDraw_regs d)
  | store _ _ d => exact .inl (State.countDraw_regs _ d)

theorem ExecEffect.haltReq (effect : ExecEffect i s t) (h : t.haltReq = true) : i.opcode = .halt := by
  cases effect with
  | halt op => exact op
  | programError | setSkip | writeReg | notRegistered | select | load | deviceError | store => cases h

theorem writtenReg_opcode {j : Reg} (h : writtenReg i = some j) :
    i.opcode = .set ∨ i.opcode = .load ∨ i.opcode = .add := by
  cases i with
  | set => exact .inl rfl
  | load => exact .inr (.inl rfl)
  | add => exact .inr (.inr rfl)
  | invalid | nop | halt | selram | store => cases h

theorem State.countDraw_eq (s : State) (d : Device) : s.countDraw d = { s with draws := (s.countDraw d).draws } := by
  unfold State.countDraw
  split <;> rfl

/-- A failing instruction changes nothing but the outputs and the count of drawn answers (60_exceptions R179). -/
theorem ExecEffect.failed {k : ErrorKind} (effect : ExecEffect i s t) (failed : t.result = .err k) :
    t = { s with result := .err k, haltReq := false, draws := t.draws } := by
  cases effect with
  | programError | notRegistered => cases failed; rfl
  | deviceError _ _ d => cases failed; rw [State.countDraw_eq]
  | setSkip | halt | writeReg | select | load | store => cases failed

/-- Settles O34: an `execute` that fails was dispatched, with an effect that is a failure. -/
theorem aFailingExecuteHasNoEffect : Obligations.AFailingExecuteHasNoEffect := by
  intro w s t k h failed
  rcases execute_next h with ⟨-, rfl⟩ | ⟨go, hexec⟩
  · cases failed
  · have same := (exec_effect hexec).failed failed
    exact ⟨same, go, same ▸ go⟩

/-! #### `execute` -/

theorem execute_keepsDriver (h : execute w s = .next t) : KeepsDriver s t := by
  rcases execute_next h with ⟨-, rfl⟩ | ⟨-, hexec⟩
  · exact ⟨rfl, rfl, rfl, rfl, rfl⟩
  · exact (exec_effect hexec).keepsDriver

theorem execute_keepsDevices (h : execute w s = .next t) : KeepsDevices s t := by
  rcases execute_next h with ⟨-, rfl⟩ | ⟨-, hexec⟩
  · exact keepsDevices_of_registry rfl
  · exact (exec_effect hexec).keepsDevices

theorem execute_reservedFlags (h : execute w s = .next t) : reservedFlags t.flags = reservedFlags s.flags := by
  rcases execute_next h with ⟨-, rfl⟩ | ⟨-, hexec⟩
  · exact reservedFlags_withSkipClear _
  · exact (exec_effect hexec).reservedFlags

theorem exec_of_noOp (op : i.opcode = .noOp) (s : State) : exec i s = returnOk s.setSkip := by
  rw [Instr.eq_build op]
  rfl

/-- After an `execute` the NOP-skip flag is set exactly when it was clear and a NoOp was dispatched (10_state R26). -/
theorem execute_skip_iff (h : execute w s = .next t) :
    t.skip = true ↔ s.skip = false ∧ (decode w).opcode = .noOp := by
  rcases execute_next h with ⟨skipped, rfl⟩ | ⟨go, hexec⟩
  · have cleared : ¬ s.clearSkip.skip = true := by rw [State.clearSkip_skip]; decide
    exact iff_of_false cleared (by simp [skipped])
  · refine ⟨fun set => ?_, fun ⟨_, op⟩ => ?_⟩
    · rcases (exec_effect hexec).flags with same | ⟨op, -⟩
      · rw [State.skip, same] at set
        exact absurd (set.symm.trans go) (by decide)
      · exact ⟨go, op⟩
    · rw [exec_of_noOp op] at hexec
      rw [returnOk_next.mp hexec]
      exact s.setSkip_skip

/-- Settles O35: of each part, what changes it, for a dispatched instruction and for a skipped slot. -/
theorem executeChangesOnlyWhatItsOpcodeMay : Obligations.ExecuteChangesOnlyWhatItsOpcodeMay := by
  intro w s t h
  refine ⟨execute_pc h, execute_keepsDevices h, execute_reservedFlags h, fun changed => ?_,
    fun _ set => ((execute_skip_iff h).mp set).2, fun skipped => ?_, fun changed => ?_, fun changed => ?_,
    fun halted => ?_⟩
  · rcases execute_next h with ⟨-, rfl⟩ | ⟨go, hexec⟩
    · exact absurd rfl changed
    · exact ⟨go, ((exec_effect hexec).active.resolve_left changed).1⟩
  · refine Bool.eq_false_iff.mpr fun set => ?_
    have go := ((execute_skip_iff h).mp set).1
    exact absurd (skipped.symm.trans go) (by decide)
  · rcases execute_next h with ⟨-, rfl⟩ | ⟨go, hexec⟩
    · exact absurd (keepsMemory_of_registry rfl) changed
    · exact ⟨go, (exec_effect hexec).registry.resolve_left fun same => changed (keepsMemory_of_registry same)⟩
  · rcases execute_next h with ⟨-, rfl⟩ | ⟨go, hexec⟩
    · exact absurd (keepsRegs_of_regs rfl) changed
    · obtain ⟨j, v, dst, -⟩ := (exec_effect hexec).regs.resolve_left fun same => changed (keepsRegs_of_regs same)
      exact ⟨go, writtenReg_opcode dst⟩
  · rcases execute_next h with ⟨-, rfl⟩ | ⟨go, hexec⟩
    · cases halted
    · exact ⟨go, (exec_effect hexec).haltReq halted⟩

/-! #### Configuration transactions (20_memory R47, R49) -/

/-- The states a configuration transaction can answer with. -/
inductive ConfigureEffect (s : State) : CfgTxn → State → Prop where
  | failed (c : CfgTxn) (k : ErrorKind) : ConfigureEffect s c (s.raised k)
  | connected (d : Device) (room : s.registry.length + 1 ≤ s.params.maxDevices) (new : d.id ∉ s.ids) :
    ConfigureEffect s (.connectDevice d) { s with registry := s.registry ++ [d], result := .ok, haltReq := false }
  | selected (id : Word) (registered : id ∈ s.ids) :
    ConfigureEffect s (.selectRamDevice id) { s with active := some id, result := .ok, haltReq := false }

theorem configure_effect (h : configure c s = .next t) : ConfigureEffect s c t := by
  cases c with
  | connectDevice d =>
    rcases connectDevice_next h with ⟨-, rfl⟩ | ⟨-, -, rfl⟩ | ⟨room, new, rfl⟩
    · exact .failed _ _
    · exact .failed _ _
    · exact .connected d room new
  | selectRamDevice id =>
    rcases selectRamDevice_next h with ⟨-, rfl⟩ | ⟨d, dev, rfl⟩
    · exact .failed _ _
    · exact .selected id (State.mem_ids.mpr ⟨d, dev⟩)

theorem configure_keepsDriver (h : configure c s = .next t) : KeepsDriver s t := by
  cases configure_effect h <;> exact ⟨rfl, rfl, rfl, rfl, rfl⟩

theorem configure_flags (h : configure c s = .next t) : t.flags = s.flags := by
  cases configure_effect h <;> rfl

theorem configure_keepsRegs (h : configure c s = .next t) : KeepsRegs s t := by
  cases configure_effect h <;> exact fun _ => rfl

/-- A configuration transaction answers, whatever the state (60_exceptions R172, R175). -/
theorem configure_answers (c : CfgTxn) (s : State) : ∃ t, configure c s = .next t := by
  cases c with
  | connectDevice d => rcases connectDevice_cases d s with ⟨-, he⟩ | ⟨-, -, he⟩ | ⟨-, -, he⟩ <;> exact ⟨_, he⟩
  | selectRamDevice id => exact selectRamDevice_answers id s

/-- Settles O36: of a dispatched instruction only the written register differs; a configuration transaction writes
none. -/
theorem aRegisterIsWrittenOnlyAsADestination : Obligations.ARegisterIsWrittenOnlyAsADestination := by
  refine ⟨fun w s t r h changed => ?_, fun c s t h => configure_keepsRegs h, fun v s t h => ?_⟩
  · rcases execute_next h with ⟨-, rfl⟩ | ⟨go, hexec⟩
    · exact absurd rfl changed
    · refine ⟨go, ?_⟩
      rcases (exec_effect hexec).regs with same | ⟨j, v, dst, written⟩
      · exact absurd (keepsRegs_of_regs same r) changed
      · by_cases hr : r = j
        · rw [hr, dst]
        · exact absurd (keepsRegsBut_of_regs written r hr) changed
  · cases h
    exact fun _ => rfl

end Sys2Proof.Machine
end

section
/-! ### The reference driver and the invariant (70_reset_and_hazards, 10_state): O49, O51, O55, O54, O13, O11, O56,
O57, O58

The four moves of the driver as equations; that each keeps the invariant; and the one induction over the number of
steps that the statements about runs use. -/

namespace Sys2Proof.Machine

open Sys2Proof

variable {s t u : State} {w : InstrWord} {c : CfgTxn}

/-! #### The moves of the driver (70_reset_and_hazards R207 to R209) -/

theorem step_ended (ended : s.outcome ≠ none) : step s = .next s := by
  obtain ⟨o, ho⟩ := Option.ne_none_iff_exists'.mp ended
  simp only [step, driverStep, ho]

theorem step_prelude {cs : List CfgTxn} (running : s.outcome = none) (queued : s.pending = c :: cs) :
    step s = mapNext afterConfigure (configure c { s with pending := cs }) := by
  simp only [step, driverStep, running, queued]

section
variable (running : s.outcome = none) (started : s.pending = [])
include running started

theorem step_ran_off (ranOff : fetch s = none) : step s = .next (s.finish .ranOffEnd) := by
  simp only [step, driverStep, running, started, ranOff]

theorem step_execute (fetched : fetch s = some w) : step s = mapNext afterExecute (execute w s) := by
  simp only [step, driverStep, running, started, fetched]

end

theorem afterConfigure_ok (h : u.result = .ok) : afterConfigure u = u := by simp only [afterConfigure, h]

theorem afterConfigure_err {k : ErrorKind} (h : u.result = .err k) : afterConfigure u = u.finish (.faulted k) := by
  simp only [afterConfigure, h]

theorem afterExecute_ok (h : u.result = .ok) (go : u.haltReq = false) : afterExecute u = u.advance := by
  simp [afterExecute, h, go]

theorem afterExecute_halt (h : u.result = .ok) (halt : u.haltReq = true) :
    afterExecute u = u.advance.finish .halted := by
  simp [afterExecute, h, halt]

theorem afterExecute_err {k : ErrorKind} (h : u.result = .err k) : afterExecute u = u.finish (.faulted k) := by
  simp only [afterExecute, h]

/-- Settles O13: the move that executes, with `exec` for `execute` as the flag is clear. -/
theorem aStepRunsTheInstructionAtTheProgramCounter : Obligations.AStepRunsTheInstructionAtTheProgramCounter := by
  intro s w i running started fetched decoded go
  subst decoded
  have move : step s = mapNext afterExecute (exec (decode w) s) := by
    rw [step_execute running started fetched, execute_dispatched go]
  refine ⟨fun t h ok noHalt => ?_, fun t h ok halt => ?_, fun t k h failed => ?_, fun f h => ?_⟩
  · rw [move, h, mapNext, afterExecute_ok ok noHalt, State.advance]
  · rw [move, h, mapNext, afterExecute_halt ok halt, State.advance, State.finish]
  · rw [move, h, mapNext, afterExecute_err failed, State.finish]
  · rw [move, h, mapNext]

/-- Settles O11: the skip is one state in which only the flag and the outputs differ, and the driver goes on from it. -/
theorem aSkippedInstructionOnlyClearsTheFlag : Obligations.ASkippedInstructionOnlyClearsTheFlag := by
  intro w s skipped
  refine ⟨⟨_, execute_skipped skipped, s.clearSkip_skip, reservedFlags_withSkipClear _, fun _ => rfl, rfl, rfl,
    keepsMemory_of_registry rfl, ⟨rfl, rfl, rfl, rfl, rfl⟩, rfl, ⟨rfl, rfl⟩⟩, fun running started fetched => ?_⟩
  refine ⟨State.advance { s.clearSkip with result := .ok, haltReq := false }, ?_, rfl, running, s.clearSkip_skip,
    fun _ => rfl⟩
  rw [step_execute running started fetched, execute_skipped skipped]
  rfl

/-- Settles O56: the moves of the prelude, of the end of the program and of an ended run. -/
theorem theReferenceDriverStartsAndEndsARun : Obligations.TheReferenceDriverStartsAndEndsARun := by
  refine ⟨fun s c cs running queued => ?_, fun s running started past => ?_, fun s ended => step_ended ended⟩
  · obtain ⟨u, h⟩ := configure_answers c { s with pending := cs }
    refine ⟨u, h, fun ok => ?_, fun k failed => ?_⟩
    · rw [step_prelude running queued, h, mapNext, afterConfigure_ok ok]
    · rw [step_prelude running queued, h, mapNext, afterConfigure_err failed, State.finish]
  · exact step_ran_off running started (List.getElem?_eq_none past)

/-! #### The dispatch of a Halt (70_reset_and_hazards R209, R210) -/

theorem exec_of_halt {i : Instr} (op : i.opcode = .halt) (s : State) : exec i s = returnHalt s := by
  rw [Instr.eq_build op]
  rfl

/-- An `execute` raises `halt_req` exactly when it dispatches a Halt (41_control R132, D9). -/
theorem execute_haltReq_iff (h : execute w s = .next t) :
    t.result = .ok ∧ t.haltReq = true ↔ s.skip = false ∧ (decode w).opcode = .halt := by
  refine ⟨fun ⟨_, halt⟩ => ?_, fun ⟨go, op⟩ => ?_⟩
  · rcases execute_next h with ⟨-, rfl⟩ | ⟨go, hexec⟩
    · cases halt
    · exact ⟨go, (exec_effect hexec).haltReq halt⟩
  · rw [execute_dispatched go, exec_of_halt op] at h
    rw [returnHalt_next.mp h]
    exact ⟨rfl, rfl⟩

theorem State.finish_isFinal {o : RunOutcome} : (s.finish o).isFinal = true ↔ o = .halted := by
  simp [State.isFinal]

theorem not_isFinal_of_running (running : s.outcome = none) : ¬ s.isFinal = true := by
  simp [State.isFinal, running]

theorem afterConfigure_not_isFinal (running : u.outcome = none) : ¬ (afterConfigure u).isFinal = true := by
  rcases afterConfigure_cases u with ⟨-, he⟩ | ⟨k, -, he⟩ <;> rw [he]
  · exact not_isFinal_of_running running
  · simp [State.finish_isFinal]

/-- What follows an `execute` is final exactly after `Ok` with `halt_req`, and `pc` has then advanced. -/
theorem afterExecute_isFinal (running : u.outcome = none) :
    ((afterExecute u).isFinal = true ↔ u.result = .ok ∧ u.haltReq = true) ∧
      ((afterExecute u).isFinal = true → (afterExecute u).pc = u.pc + 1) := by
  rcases afterExecute_cases u with ⟨-, noHalt, he⟩ | ⟨ok, halt, he⟩ | ⟨k, failed, he⟩ <;> rw [he]
  · have notFinal : ¬ u.advance.isFinal = true := not_isFinal_of_running running
    exact ⟨iff_of_false notFinal (by simp [noHalt]), fun final => absurd final notFinal⟩
  · exact ⟨iff_of_true (State.finish_isFinal.mpr rfl) ⟨ok, halt⟩, fun _ => rfl⟩
  · have notFinal : ¬ (u.finish (.faulted k)).isFinal = true := by simp [State.finish_isFinal]
    exact ⟨iff_of_false notFinal (by simp [failed]), fun final => absurd final notFinal⟩

/-- Settles O57: of the four moves only the one that executes can end the run `Halted`. -/
theorem aRunBecomesFinalExactlyByADispatchedHalt : Obligations.ARunBecomesFinalExactlyByADispatchedHalt := by
  intro s t running h
  rcases driverStep_next h with ⟨ended, -⟩ | ⟨c, cs, u, -, queued, hu, rfl⟩ | ⟨-, started, ranOff, rfl⟩ |
    ⟨w, u, -, started, fetched, hu, rfl⟩
  · exact absurd running ended
  · obtain ⟨-, -, -, sameOutcome, -⟩ := configure_keepsDriver hu
    have notFinal := afterConfigure_not_isFinal (sameOutcome.trans running)
    exact ⟨iff_of_false notFinal (by simp [queued]), fun final => absurd final notFinal⟩
  · have notFinal : ¬ (s.finish .ranOffEnd).isFinal = true := by simp [State.finish_isFinal]
    exact ⟨iff_of_false notFinal (by simp [ranOff]), fun final => absurd final notFinal⟩
  · obtain ⟨samePc, -, -, sameOutcome, -⟩ := execute_keepsDriver hu
    obtain ⟨final_iff, advanced⟩ := afterExecute_isFinal (sameOutcome.trans running)
    refine ⟨?_, fun final => by rw [advanced final, samePc]⟩
    rw [final_iff, execute_haltReq_iff hu]
    simp [started, fetched]

/-! #### The invariant -/

/-- What is enough for a transition to keep the invariant when it keeps the ids. -/
theorem GoodState.of_same_ids (good : GoodState s) (ids : t.ids = s.ids)
    (active : ∀ id, t.active = some id → id ∈ s.ids) (wf : ∀ d ∈ t.registry, d.wf = true)
    (pending : ∀ c ∈ t.pending, c ∈ s.pending) (reserved : reservedFlags t.flags = reservedFlags s.flags)
    (prog : t.prog = s.prog) (params : t.params = s.params) : GoodState t where
  ids_nodup := ids ▸ good.ids_nodup
  devices_le := by rw [← State.ids_length, ids, State.ids_length, params]; exact good.devices_le
  active_registered := ids ▸ active
  devices_wf := wf
  pending_wf := fun c hc => good.pending_wf c (pending c hc)
  reserved_reset := by rw [reserved, params]; exact good.reserved_reset
  prog_le := prog ▸ good.prog_le

theorem GoodState.with_pending {cs : List CfgTxn} (good : GoodState s) (sub : ∀ c ∈ cs, c ∈ s.pending) :
    GoodState { s with pending := cs } :=
  good.of_same_ids rfl good.active_registered good.devices_wf sub rfl rfl rfl

theorem GoodState.with_pc (good : GoodState s) (p : Word) : GoodState (s.withPc p) :=
  good.of_same_ids rfl good.active_registered good.devices_wf (fun _ h => h) rfl rfl rfl

theorem GoodState.advance (good : GoodState s) : GoodState s.advance := good.with_pc _

theorem GoodState.finish (good : GoodState s) (o : RunOutcome) : GoodState (s.finish o) :=
  good.of_same_ids rfl good.active_registered good.devices_wf (fun _ h => h) rfl rfl rfl

/-- A device that an instruction puts back is one it found, or the same with a word written. -/
theorem ExecEffect.devices_wf {i : Instr} (effect : ExecEffect i s t) (wf : ∀ d ∈ s.registry, d.wf = true) :
    ∀ d ∈ t.registry, d.wf = true := by
  cases effect with
  | programError | setSkip | halt | writeReg | notRegistered | select => exact wf
  | load _ _ d | deviceError _ _ d => exact (s.countDraw_registry d).symm ▸ wf
  | store _ id d _ dev a =>
    intro e he
    rw [State.countDraw_registry] at he
    rcases mem_replaceDevice he with rfl | old
    · exact Device.secondary_wf (wf d (findDevice_mem dev)) _ _ _
    · exact wf e old

theorem ExecEffect.good {i : Instr} (effect : ExecEffect i s t) (good : GoodState s) : GoodState t := by
  obtain ⟨-, prog, pending, -, params⟩ := effect.keepsDriver
  refine good.of_same_ids effect.keepsDevices.1 (fun id act => ?_) (effect.devices_wf good.devices_wf)
    (fun c hc => pending ▸ hc) effect.reservedFlags prog params
  rcases effect.active with same | ⟨-, id', registered, selected⟩
  · exact good.active_registered id (same ▸ act)
  · rw [selected] at act
    cases act
    exact registered

theorem execute_good (good : GoodState s) (h : execute w s = .next t) : GoodState t := by
  rcases execute_next h with ⟨-, rfl⟩ | ⟨-, hexec⟩
  · exact good.of_same_ids rfl good.active_registered good.devices_wf (fun _ h => h)
      (reservedFlags_withSkipClear _) rfl rfl
  · exact (exec_effect hexec).good good

theorem configure_good (good : GoodState s) (canonicalForm : c.wf = true) (h : configure c s = .next t) :
    GoodState t := by
  cases configure_effect h with
  | failed c k => exact good.of_same_ids rfl good.active_registered good.devices_wf (fun _ h => h) rfl rfl rfl
  | connected d room new =>
    exact
      { ids_nodup := by
          rw [State.ids, List.map_append, List.nodup_append']
          exact ⟨good.ids_nodup, List.nodup_singleton _, by simpa [State.ids] using new⟩
        devices_le := by rw [List.length_append]; exact room
        active_registered := fun id act => by
          rw [State.ids, List.map_append]
          exact List.mem_append_left _ (good.active_registered id act)
        devices_wf := fun e he => by
          rcases List.mem_append.mp he with old | added
          · exact good.devices_wf e old
          · rw [List.mem_singleton.mp added]
            exact canonicalForm
        pending_wf := good.pending_wf
        reserved_reset := good.reserved_reset
        prog_le := good.prog_le }
  | selected id registered =>
    exact good.of_same_ids rfl (fun id' act => Option.some.inj act ▸ registered) good.devices_wf (fun _ h => h)
      rfl rfl rfl

theorem afterConfigure_good (good : GoodState u) : GoodState (afterConfigure u) := by
  rcases afterConfigure_cases u with ⟨-, he⟩ | ⟨k, -, he⟩ <;> rw [he]
  · exact good
  · exact good.finish _

theorem afterExecute_good (good : GoodState u) : GoodState (afterExecute u) := by
  rcases afterExecute_cases u with ⟨-, -, he⟩ | ⟨-, -, he⟩ | ⟨k, -, he⟩ <;> rw [he]
  · exact good.advance
  · exact good.advance.finish _
  · exact good.finish _

theorem step_good (good : GoodState s) (h : step s = .next t) : GoodState t := by
  rcases driverStep_next h with ⟨-, rfl⟩ | ⟨c, cs, u, -, queued, hu, rfl⟩ | ⟨-, -, -, rfl⟩ | ⟨w, u, -, -, -, hu, rfl⟩
  · exact good
  · have canonicalForm := good.pending_wf c (queued ▸ List.mem_cons_self)
    have rest : GoodState { s with pending := cs } :=
      good.with_pending fun c hc => queued ▸ List.mem_cons_of_mem _ hc
    exact afterConfigure_good (configure_good rest canonicalForm hu)
  · exact good.finish _
  · exact afterExecute_good (execute_good good hu)

/-- Settles O49: each of the four moves keeps the invariant. -/
theorem everyStepKeepsTheInvariant : Obligations.EveryStepKeepsTheInvariant := fun _ _ => step_good

theorem transact_good {x : Txn} (good : GoodState s) (canonicalForm : x.wf = true) (h : transact x s = .next t) :
    GoodState t := by
  cases x with
  | execute w => exact execute_good good h
  | configure c => exact configure_good good canonicalForm h
  | writePc v => cases h; exact good.with_pc v

/-- Settles O51: each of the three transactions keeps the invariant. -/
theorem everyTransactionKeepsTheInvariant : Obligations.EveryTransactionKeepsTheInvariant := fun _ _ _ => transact_good

/-! #### The faults of a step (60_exceptions R173, R174) -/

theorem mapNext_fault {f : State → State} {o : Out} {e : Fault} (h : mapNext f o = .fault e) : o = .fault e := by
  cases o with
  | next u => cases h
  | fault e' => exact h
  | refused r => cases h

theorem mapNext_ne_refused {f : State → State} {o : Out} {r : Refusal} (h : o ≠ .refused r) :
    mapNext f o ≠ .refused r := by
  cases o with
  | next u => exact nofun
  | fault e => exact nofun
  | refused r' => exact h

/-- Everything a step can be: ended, a configuration transaction, the end of the program, or an `execute`. -/
theorem step_cases (s : State) :
    step s = .next s ∨
    (∃ c cs, s.pending = c :: cs ∧ step s = mapNext afterConfigure (configure c { s with pending := cs })) ∨
    step s = .next (s.finish .ranOffEnd) ∨
    (∃ w, s.outcome = none ∧ s.pending = [] ∧ fetch s = some w ∧ step s = mapNext afterExecute (execute w s)) := by
  by_cases running : s.outcome = none
  · cases queued : s.pending with
    | cons c cs => exact .inr (.inl ⟨c, cs, rfl, step_prelude running queued⟩)
    | nil =>
      cases fetched : fetch s with
      | none => exact .inr (.inr (.inl (step_ran_off running queued fetched)))
      | some w => exact .inr (.inr (.inr ⟨w, running, rfl, rfl, step_execute running queued fetched⟩))
  · exact .inl (step_ended running)

/-- A step that faults does so in a dispatched instruction. -/
theorem step_fault {f : Fault} (h : step s = .fault f) : ∃ w, ExecFault (decode w) s f := by
  rcases step_cases s with he | ⟨c, cs, -, he⟩ | he | ⟨w, -, -, -, he⟩ <;> rw [he] at h
  · cases h
  · obtain ⟨t, answers⟩ := configure_answers c { s with pending := cs }
    rw [answers] at h
    cases h
  · cases h
  · have fault := mapNext_fault h
    cases hs : s.skip with
    | true => rw [execute_skipped hs] at fault; cases fault
    | false => rw [execute_dispatched hs] at fault; exact ⟨w, exec_fault fault⟩

theorem step_ne_refused {r : Refusal} : step s ≠ .refused r := by
  rcases step_cases s with he | ⟨c, cs, -, he⟩ | he | ⟨w, -, -, -, he⟩ <;> rw [he]
  · exact nofun
  · obtain ⟨t, answers⟩ := configure_answers c { s with pending := cs }
    rw [answers]
    exact nofun
  · exact nofun
  · exact mapNext_ne_refused execute_ne_refused

/-- Settles O54: the third cause of a fault is a selection that names no device, which a good state does not have. -/
theorem aGoodStateStopsOnlyWithTheTwoFaultsOfTheSpec : Obligations.AGoodStateStopsOnlyWithTheTwoFaultsOfTheSpec := by
  refine ⟨fun s f good h => ?_, fun s r => step_ne_refused⟩
  obtain ⟨w, cause⟩ := step_fault h
  cases cause with
  | contract => exact .inl rfl
  | early => exact .inr rfl
  | unregistered id act absent =>
    exact absurd (good.active_registered id act) (State.not_mem_ids.mpr absent)

/-! #### Runs -/

/-- What a step keeps, a run keeps. -/
theorem runSteps_induction {P : State → Prop} (keeps : ∀ u v, P u → step u = .next v → P v) {n : Nat}
    (start : P s) (h : runSteps n s = .next t) : P t := by
  induction n generalizing s with
  | zero => cases h; exact start
  | succ n ih =>
    obtain ⟨u, first, rest⟩ := runSteps_succ_next h
    exact ih (keeps s u start first) rest

/-- A run whose steps all answer is safe. -/
theorem safeFrom_of_invariant {P : State → Prop} (progress : ∀ u, P u → ∃ v, step u = .next v)
    (keeps : ∀ u v, P u → step u = .next v → P v) (start : P s) : SafeFrom s := by
  intro n
  induction n generalizing s with
  | zero => exact ⟨s, rfl⟩
  | succ n ih =>
    obtain ⟨u, first⟩ := progress s start
    rw [runSteps_succ_of_next first]
    exact ih (keeps s u start first)

theorem afterConfigure_frame (u : State) : (afterConfigure u).prog = u.prog ∧ (afterConfigure u).params = u.params := by
  rcases afterConfigure_cases u with ⟨-, he⟩ | ⟨k, -, he⟩ <;> rw [he] <;> exact ⟨rfl, rfl⟩

theorem afterExecute_frame (u : State) :
    (afterExecute u).prog = u.prog ∧ (afterExecute u).params = u.params ∧ (afterExecute u).pending = u.pending ∧
      (afterExecute u).active = u.active := by
  rcases afterExecute_cases u with ⟨-, -, he⟩ | ⟨-, -, he⟩ | ⟨k, -, he⟩ <;> rw [he] <;> exact ⟨rfl, rfl, rfl, rfl⟩

/-- No move of the driver writes the program or the parameters. -/
theorem step_prog_params (h : step s = .next t) : t.prog = s.prog ∧ t.params = s.params := by
  rcases driverStep_next h with ⟨-, rfl⟩ | ⟨c, cs, u, -, -, hu, rfl⟩ | ⟨-, -, -, rfl⟩ | ⟨w, u, -, -, -, hu, rfl⟩
  · exact ⟨rfl, rfl⟩
  · obtain ⟨-, prog, -, -, params⟩ := configure_keepsDriver hu
    obtain ⟨prog', params'⟩ := afterConfigure_frame u
    exact ⟨prog'.trans prog, params'.trans params⟩
  · exact ⟨rfl, rfl⟩
  · obtain ⟨-, prog, -, -, params⟩ := execute_keepsDriver hu
    obtain ⟨prog', params', -, -⟩ := afterExecute_frame u
    exact ⟨prog'.trans prog, params'.trans params⟩

/-- Settles O58: by `runSteps_induction`. -/
theorem theProgramTextNeverChanges : Obligations.TheProgramTextNeverChanges := by
  intro n s t h
  exact runSteps_induction (P := fun u => u.prog = s.prog)
    (fun u v same first => (step_prog_params first).1.trans same) rfl h

/-! #### A legal program with a device selected (70_reset_and_hazards R202) -/

theorem execute_selected (selected : s.active ≠ none) (h : execute w s = .next t) : t.active ≠ none := by
  rcases execute_next h with ⟨-, rfl⟩ | ⟨-, hexec⟩
  · exact selected
  · rcases (exec_effect hexec).active with same | ⟨-, id, -, now⟩
    · rw [same]
      exact selected
    · rw [now]
      exact Option.some_ne_none id

/-- What holds throughout the run of a legal program that has selected a device. -/
structure ReadyState (s : State) : Prop where
  good : GoodState s
  started : s.pending = []
  selected : s.active ≠ none
  legal : s.legalProgram

theorem fetch_mem (fetched : fetch s = some w) : w ∈ s.prog := List.mem_of_getElem? fetched

theorem ReadyState.progress (ready : ReadyState s) : ∃ t, step s = .next t := by
  rcases step_cases s with he | ⟨c, cs, queued, -⟩ | he | ⟨w, -, -, fetched, he⟩
  · exact ⟨_, he⟩
  · exact absurd (ready.started.symm.trans queued) (by simp)
  · exact ⟨_, he⟩
  · have answers : ∃ u, execute w s = .next u := by
      cases hs : s.skip with
      | true => exact ⟨_, execute_skipped hs⟩
      | false =>
        rw [execute_dispatched hs]
        exact legalInstructionsComplete _ s (ready.legal w (fetch_mem fetched)) ready.good fun _ => ready.selected
    obtain ⟨u, hu⟩ := answers
    exact ⟨afterExecute u, by rw [he, hu, mapNext]⟩

theorem ReadyState.step (ready : ReadyState s) (h : step s = .next t) : ReadyState t := by
  have good := step_good ready.good h
  have legal : t.legalProgram := fun w hw => ready.legal w ((step_prog_params h).1 ▸ hw)
  rcases driverStep_next h with ⟨-, rfl⟩ | ⟨c, cs, u, -, queued, -, rfl⟩ | ⟨-, -, -, rfl⟩ | ⟨w, u, -, -, -, hu, rfl⟩
  · exact ready
  · exact absurd (ready.started.symm.trans queued) (by simp)
  · exact ⟨good, ready.started, ready.selected, legal⟩
  · obtain ⟨-, -, pending, -, -⟩ := execute_keepsDriver hu
    obtain ⟨-, -, pending', active'⟩ := afterExecute_frame u
    exact ⟨good, (pending'.trans pending).trans ready.started, active'.symm ▸ execute_selected ready.selected hu, legal⟩

/-- Settles O55: a ready state answers, with a ready state. -/
theorem aLegalProgramNeverFaultsOnceADeviceIsSelected : Obligations.ALegalProgramNeverFaultsOnceADeviceIsSelected :=
  fun _ good started selected legal =>
    safeFrom_of_invariant (fun _ => ReadyState.progress) (fun _ _ => ReadyState.step) ⟨good, started, selected, legal⟩

end Sys2Proof.Machine
end

section
/-! ### Sequences of transactions (10_state section 4, 20_memory section 6): O52, O53 -/

namespace Sys2Proof.Machine

open Sys2Proof

variable {s t u : State} {x : Txn} {xs : List Txn} {id a : Word}

theorem runTxns_cons_next (h : runTxns (x :: xs) s = .next t) :
    ∃ u, transact x s = .next u ∧ runTxns xs u = .next t := by
  unfold runTxns at h
  cases hx : transact x s with
  | next u => exact ⟨u, rfl, by rwa [hx] at h⟩
  | fault f => rw [hx] at h; cases h
  | refused r => rw [hx] at h; cases h

/-! #### Devices are appended, a selection stays (10_state R28, R29, 20_memory R50) -/

theorem transact_ids (h : transact x s = .next t) : ∃ new, t.ids = s.ids ++ new := by
  cases x with
  | execute w => exact ⟨[], by rw [(execute_keepsDevices h).1, List.append_nil]⟩
  | configure c =>
    cases configure_effect h with
    | failed c k => exact ⟨[], (List.append_nil _).symm⟩
    | connected d => exact ⟨[d.id], List.map_append⟩
    | selected id => exact ⟨[], (List.append_nil _).symm⟩
  | writePc v => cases h; exact ⟨[], (List.append_nil _).symm⟩

theorem transact_selected (selected : s.active ≠ none) (h : transact x s = .next t) : t.active ≠ none := by
  cases x with
  | execute w => exact execute_selected selected h
  | configure c =>
    cases configure_effect h with
    | failed c k => exact selected
    | connected d => exact selected
    | selected id => exact Option.some_ne_none id
  | writePc v => cases h; exact selected

/-- Settles O52: by induction on the sequence, as one transaction appends ids and keeps a selection. -/
theorem devicesAreOnlyAppendedAndSelectionsNeverUndone :
    Obligations.DevicesAreOnlyAppendedAndSelectionsNeverUndone := by
  intro xs
  induction xs with
  | nil =>
    intro s t h
    cases h
    exact ⟨⟨[], (List.append_nil _).symm⟩, fun selected => selected⟩
  | cons x xs ih =>
    intro s t h
    obtain ⟨u, first, rest⟩ := runTxns_cons_next h
    obtain ⟨⟨later, hlater⟩, stays⟩ := ih u t rest
    obtain ⟨new, hnew⟩ := transact_ids first
    exact ⟨⟨new ++ later, by rw [hlater, hnew, List.append_assoc]⟩,
      fun selected => stays (transact_selected selected first)⟩

/-! #### The latest store to a byte (20_memory R65) -/

theorem lastStored_cons (e : StoreEvent) (es : List StoreEvent) (id a : Word) :
    lastStored (e :: es) id a = (lastStored es id a).or (e.byteAt id a) := by
  rw [lastStored]
  cases lastStored es id a <;> rfl

theorem lastStored_append (es fs : List StoreEvent) (id a : Word) :
    lastStored (es ++ fs) id a = (lastStored fs id a).or (lastStored es id a) := by
  induction es with
  | nil => rw [List.nil_append, lastStored, Option.or_none]
  | cons e es ih => rw [List.cons_append, lastStored_cons, ih, lastStored_cons, Option.or_assoc]

/-- A store leaves the bytes of the other devices alone. -/
theorem StoreEvent.byteAt_other {e : StoreEvent} (other : e.device ≠ id) : e.byteAt id a = none := by
  simp [StoreEvent.byteAt, other]

/-- The bytes after a word is stored are those of the event, and else those before (20_memory R59). -/
theorem readByte_byteAt {e : StoreEvent} {b : Byte}
    (high : t.readByte e.device (align e.addr) = some (e.value.extractLsb' 8 8))
    (low : t.readByte e.device (align e.addr + 1) = some (e.value.extractLsb' 0 8))
    (others : KeepsMemoryBut e.device e.addr s t) (held : s.readByte id a = some b) :
    t.readByte id a = some ((e.byteAt id a).getD b) := by
  unfold StoreEvent.byteAt
  split
  case isTrue here => obtain ⟨rfl, rfl⟩ := here; exact high
  case isFalse notHigh =>
    split
    case isTrue here => obtain ⟨rfl, rfl⟩ := here; exact low
    case isFalse notLow =>
      have outside : id ≠ e.device ∨ (a ≠ align e.addr ∧ a ≠ align e.addr + 1) := by tauto
      rw [others id a outside, held]
      rfl

/-- Only a RAM device has bytes. -/
theorem State.readByte_other {d : Device} (dev : s.dev id = some d) (abstract : d.isRam = false) :
    s.readByte id a = none := by
  simp only [State.readByte, dev, Device.isRam_eq_false_iff.mp abstract]

/-- A Store makes the event that is recorded for it, if its device is a RAM device. -/
theorem execStore_readByte {src dst : Sel} {imm : Word} {b : Byte} (good : GoodState s)
    (h : exec (.store src dst imm) s = .next t) (held : s.readByte id a = some b) :
    t.readByte id a = some ((lastStored (instrStoreEvent (.store src dst imm) s).toList id a).getD b) := by
  obtain ⟨adr, id', d, hadr, act, dev, -⟩ := execStore_next h
  have event : instrStoreEvent (.store src dst imm) s = some ⟨id', adr, srcVal src imm s⟩ := by
    simp only [instrStoreEvent, act, hadr]
  rw [event, Option.toList_some, lastStored_cons, lastStored, Option.none_or]
  cases kind : d.isRam with
  | true =>
    obtain ⟨m, ram⟩ := Device.isRam_iff.mp kind
    rw [exec_store_ram act dev ram hadr] at h
    cases h
    obtain ⟨high, low, others⟩ := State.readByte_stored dev ram (good.devices_wf d (findDevice_mem dev)) adr
      (srcVal src imm s)
      (t := { s.putDevice (d.stored m adr (srcVal src imm s)) with result := .ok, haltReq := false }) rfl
    exact readByte_byteAt (e := ⟨id', adr, srcVal src imm s⟩) high low others held
  | false =>
    have other : id' ≠ id := by
      rintro rfl
      rw [State.readByte_other dev kind] at held
      cases held
    obtain ⟨u, hu, -, -, -, -, others, -, -⟩ :=
      anAbstractDevicesAnswersPropagate.2 src dst imm id' adr d s act dev kind hadr
    obtain rfl : u = t := by simpa [hu] using h
    rw [StoreEvent.byteAt_other other, others, held]
    rfl

/-- A transaction that is no dispatched Store makes no event. -/
theorem transact_readByte {b : Byte} (good : GoodState s) (h : transact x s = .next t)
    (held : s.readByte id a = some b) : t.readByte id a = some ((lastStored (x.storeEvent s).toList id a).getD b) := by
  cases x with
  | execute w =>
    rcases execute_next h with ⟨skipped, rfl⟩ | ⟨go, hexec⟩
    · rw [Txn.storeEvent, if_pos skipped]
      exact held
    · rw [Txn.storeEvent, if_neg (by simp [go])]
      generalize decode w = i at hexec
      cases i with
      | store src dst imm => exact execStore_readByte good hexec held
      | invalid src dst imm | nop src dst imm | halt src dst imm | set src dst imm | selram src dst imm
      | load src dst imm | add src dst imm =>
        have same := (exec_effect hexec).registry.resolve_right (by simp [Instr.opcode])
        exact (keepsMemory_of_registry same id a).trans held
  | configure c =>
    cases configure_effect h with
    | failed c k => exact held
    | connected d room new =>
      have registered : id ∈ s.ids := by
        by_contra absent
        rw [State.readByte, State.not_mem_ids.mp absent] at held
        cases held
      have other : id ≠ d.id := fun same => new (same ▸ registered)
      have lookup : State.dev { s with registry := s.registry ++ [d], result := .ok, haltReq := false } id = s.dev id :=
        findDevice_append_singleton other
      exact (State.readByte_congr lookup a).trans held
    | selected id' => exact held
  | writePc v => cases h; exact held

theorem storeEvents_cons (h : transact x s = .next u) :
    storeEvents (x :: xs) s = (x.storeEvent s).toList ++ storeEvents xs u := by
  rw [storeEvents, h]

/-- Settles O53: by induction on the sequence; the events of the first transaction come before the others, so they are
what a byte holds when none of the others reaches it. -/
theorem everyByteHoldsItsLatestStore : Obligations.EveryByteHoldsItsLatestStore := by
  intro xs
  induction xs with
  | nil =>
    intro s t _ _ h id a b held
    cases h
    exact held
  | cons x xs ih =>
    intro s t good canonicalForm h id a b held
    obtain ⟨u, first, rest⟩ := runTxns_cons_next h
    have goodAfter := transact_good good (canonicalForm x List.mem_cons_self) first
    rw [ih u t goodAfter (fun y hy => canonicalForm y (List.mem_cons_of_mem _ hy)) rest id a _
      (transact_readByte good first held), storeEvents_cons first, lastStored_append]
    cases lastStored (storeEvents xs u) id a <;> rfl

end Sys2Proof.Machine
end

section
/-! ### What does not influence an instruction: O37, O39, O40, O60

Two states that look the same to an instruction, and differ in a way that its updates carry along, lead to outcomes
that differ in that way. Each statement names one such difference: another value in a register, in the flags, in the
parameters, or another device in place of one that is not active. -/

namespace Sys2Proof.Machine

open Sys2Proof

variable {s s' t : State} {i : Instr} {R : State → State → Prop}

/-! #### Outcomes and accesses that differ only as `R` says -/

/-- Both go on, in states related by `R`, or both stop for the same reason. -/
inductive Alike (R : State → State → Prop) : Out → Out → Prop where
  | next {t t' : State} (related : R t t') : Alike R (.next t) (.next t')
  | fault (f : Fault) : Alike R (.fault f) (.fault f)
  | refused (r : Refusal) : Alike R (.refused r) (.refused r)

/-- Both come to the same value or the same error, in states related by `R`, or to the same stop. -/
inductive AccessAlike (R : State → State → Prop) {α : Type} : Access α → Access α → Prop where
  | done {t t' : State} (v : α) (related : R t t') : AccessAlike R (.done v t) (.done v t')
  | err {t t' : State} (k : ErrorKind) (related : R t t') : AccessAlike R (.err k t) (.err k t')
  | stop (f : Fault) : AccessAlike R (.stop f) (.stop f)

/-- Outcomes whose states differ by `f` are equal up to `f`. -/
theorem Alike.eq_mapNext {f : State → State} {o o' : Out} (h : Alike (fun t t' => t' = f t) o o') :
    o' = mapNext f o := by
  cases h with
  | next related => rw [related, mapNext]
  | fault f => rfl
  | refused r => rfl

/-- Outcomes whose states agree once `m` has hidden the difference agree once `m` has hidden it. -/
theorem Alike.mapNext_eq {m : State → State} {o o' : Out} (h : Alike (fun t t' => m t' = m t) o o') :
    mapNext m o' = mapNext m o := by
  cases h with
  | next related => rw [mapNext, related, mapNext]
  | fault f => rfl
  | refused r => rfl

/-! #### What an instruction looks at, and what it updates -/

/-- `s` and `s'` look the same to `i`: the registers it reads (10_state R21), the selection, the active device, the ids
that are registered, and the count of drawn answers. -/
structure SameView (i : Instr) (s s' : State) : Prop where
  regs : ∀ r, readsReg i r = true → s'.readReg r = s.readReg r
  active : s'.active = s.active
  device : ∀ id, s.active = some id → s'.dev id = s.dev id
  ids : s'.ids = s.ids
  draws : s'.draws = s.draws

/-- The updates that `i` can make in `s` carry the difference `R` along. -/
structure Carries (i : Instr) (s : State) (R : State → State → Prop) : Prop where
  outputs : ∀ {u u' : State} (r : TxnResult) (h : Bool), R u u' →
    R { u with result := r, haltReq := h } { u' with result := r, haltReq := h }
  setSkip : ∀ {u u' : State}, R u u' → R u.setSkip u'.setSkip
  writeReg : ∀ {u u' : State} (j : Reg) (v : Word), writtenReg i = some j → R u u' →
    R (u.writeReg j v) (u'.writeReg j v)
  select : ∀ {u u' : State} (id : Word), R u u' → R { u with active := some id } { u' with active := some id }
  countDraw : ∀ {u u' : State} (d : Device), R u u' → R (u.countDraw d) (u'.countDraw d)
  putDevice : ∀ {u u' : State} (d : Device), s.active = some d.id → R u u' → R (u.putDevice d) (u'.putDevice d)

/-! #### The shared operations -/

/-- A source that the instruction reads is worth the same. -/
theorem SameView.srcVal (view : SameView i s s') {src : Sel} (imm : Word)
    (reads : ∀ r, src = .reg r → readsReg i r = true) : srcVal src imm s' = Machine.srcVal src imm s := by
  cases src with
  | none => rfl
  | reg r => exact view.regs r (reads r rfl)
  | imm => rfl

/-- An address that the instruction reads is the same. -/
theorem SameView.addrVal (view : SameView i s s') {dst : Sel} (imm : Word)
    (reads : ∀ r, dst = .reg r → readsReg i r = true) : addrVal dst imm s' = Machine.addrVal dst imm s := by
  cases dst with
  | none => rfl
  | reg r => exact congrArg some (view.regs r (reads r rfl))
  | imm => rfl

theorem alike_readAnswer {u u' : State} (r : DevAnswer) (related : R u u') :
    AccessAlike R (readAnswer r u) (readAnswer r u') := by
  cases r with
  | data v => exact .done v related
  | noOutput | fail k => exact .err _ related

theorem alike_writeAnswer {u u' : State} (r : DevAnswer) (related : R u u') :
    AccessAlike R (writeAnswer r u) (writeAnswer r u') := by
  cases r with
  | data v | noOutput => exact .done () related
  | fail k => exact .err _ related

/-- The active device is the same, or missing in the same way. -/
theorem SameView.activeDevice (view : SameView i s s') :
    (∃ id d, s.active = some id ∧ s.dev id = some d ∧ s'.active = some id ∧ s'.dev id = some d) ∨
    (activeDevice s = .err .noActiveRamDevice s ∧ activeDevice s' = .err .noActiveRamDevice s') ∨
    (activeDevice s = .stop .activeNotRegistered ∧ activeDevice s' = .stop .activeNotRegistered) := by
  rcases activeDevice_cases s with ⟨early, he⟩ | ⟨id, act, absent, he⟩ | ⟨id, d, act, dev, -⟩
  · exact .inr (.inl ⟨he, by rw [Machine.activeDevice, view.active, early]⟩)
  · refine .inr (.inr ⟨he, ?_⟩)
    rw [Machine.activeDevice, view.active, act]
    simp only [view.device id act, absent]
  · exact .inl ⟨id, d, act, dev, view.active.trans act, (view.device id act).trans dev⟩

section
variable (carries : Carries i s R)
include carries

theorem Carries.alike_returnOk {u u' : State} (related : R u u') : Alike R (returnOk u) (returnOk u') :=
  .next (carries.outputs _ _ related)

theorem Carries.alike_raise {u u' : State} (k : ErrorKind) (related : R u u') : Alike R (raise k u) (raise k u') := by
  cases k with
  | contractViolation => exact .fault _
  | noActiveRamDevice => exact .fault _
  | programError | deviceDoesNotExist | deviceIdExists | tooManyDevices | invalidInput | wrongArgumentCount
  | noOutput => exact .next (carries.outputs _ _ related)

theorem Carries.alike_andThen {α : Type} {x x' : Access α} {f : α → State → Out} (same : AccessAlike R x x')
    (goesOn : ∀ v {u u' : State}, R u u' → Alike R (f v u) (f v u')) : Alike R (x.andThen f) (x'.andThen f) := by
  cases same with
  | done v related => exact goesOn v related
  | err k related => exact carries.alike_raise k related
  | stop f => exact .fault f

variable (view : SameView i s s') (related : R s s')
include view related

theorem Carries.alike_selectRamDevice (id : Word) : Alike R (selectRamDevice id s) (selectRamDevice id s') := by
  by_cases registered : id ∈ s.ids
  · rw [selectRamDevice_registered registered, selectRamDevice_registered (view.ids.symm ▸ registered)]
    exact .next (carries.outputs _ _ (carries.select id related))
  · rw [selectRamDevice_unregistered registered, selectRamDevice_unregistered (view.ids.symm ▸ registered)]
    exact .next (carries.outputs _ _ related)

theorem Carries.alike_memRead (a : Word) : AccessAlike R (memRead a s) (memRead a s') := by
  rcases view.activeDevice with ⟨id, d, act, dev, act', dev'⟩ | ⟨he, he'⟩ | ⟨he, he'⟩
  · rw [memRead_active act dev, memRead_active act' dev', view.draws]
    exact alike_readAnswer _ (carries.countDraw d related)
  · simp only [memRead, he, he']
    exact .err _ related
  · simp only [memRead, he, he']
    exact .stop _

theorem Carries.alike_memWrite (a v : Word) : AccessAlike R (memWrite a v s) (memWrite a v s') := by
  rcases view.activeDevice with ⟨id, d, act, dev, act', dev'⟩ | ⟨he, he'⟩ | ⟨he, he'⟩
  · rw [memWrite_active act dev, memWrite_active act' dev', view.draws]
    have isActive : s.active = some (d.secondary s.draws a v).2.id := by
      rw [(d.secondary_header s.draws a v).1, findDevice_id dev, act]
    exact alike_writeAnswer _ (carries.countDraw d (carries.putDevice _ isActive related))
  · simp only [memWrite, he, he']
    exact .err _ related
  · simp only [memWrite, he, he']
    exact .stop _

/-- An instruction that sees the same in two states does the same in them, up to the difference between them. -/
theorem Carries.alike_exec : Alike R (exec i s) (exec i s') := by
  cases i with
  | invalid src dst imm => exact carries.alike_raise .programError related
  | nop src dst imm => exact carries.alike_returnOk (carries.setSkip related)
  | halt src dst imm => exact .next (carries.outputs _ _ related)
  | set src dst imm =>
    have source := view.srcVal (src := src) imm fun r h => by simp [readsReg, h]
    simp only [exec, execSet, source]
    cases dst with
    | reg j => exact carries.alike_returnOk (carries.writeReg j _ rfl related)
    | none | imm => exact carries.alike_raise .contractViolation related
  | selram src dst imm =>
    have source := view.srcVal (src := src) imm fun r h => by simp [readsReg, h]
    simp only [exec, execSelram, source]
    exact carries.alike_selectRamDevice view related _
  | load src dst imm =>
    have source := view.srcVal (src := src) imm fun r h => by simp [readsReg, h]
    simp only [exec, execLoad, source]
    cases dst with
    | reg j =>
      exact carries.alike_andThen (carries.alike_memRead view related _) fun v _ _ after =>
        carries.alike_returnOk (carries.writeReg j v rfl after)
    | none | imm => exact carries.alike_raise .contractViolation related
  | store src dst imm =>
    have source := view.srcVal (src := src) imm fun r h => by simp [readsReg, h]
    have address := view.addrVal (dst := dst) imm fun r h => by simp [readsReg, h]
    simp only [exec, execStore, source, address]
    cases addrVal dst imm s with
    | some a =>
      exact carries.alike_andThen (carries.alike_memWrite view related _ _) fun _ _ _ after =>
        carries.alike_returnOk after
    | none => exact carries.alike_raise .contractViolation related
  | add src dst imm =>
    have source := view.srcVal (src := src) imm fun r h => by simp [readsReg, h]
    simp only [exec, execAdd, source]
    cases dst with
    | reg j =>
      have old : s'.readReg j = s.readReg j := view.regs j (by simp [readsReg])
      simp only [dstReg, old]
      exact carries.alike_returnOk (carries.writeReg j _ rfl related)
    | none | imm => exact carries.alike_raise .contractViolation related

end

/-! #### The parameters (00_scope R5) -/

/-- The state with other parameters. -/
def State.withParams (p : Params) (s : State) : State := { s with params := p }

theorem State.countDraw_withParams (p : Params) (s : State) (d : Device) :
    (s.withParams p).countDraw d = (s.countDraw d).withParams p := by
  unfold State.countDraw
  split <;> rfl

theorem carries_withParams (i : Instr) (s : State) (p : Params) : Carries i s (fun u u' => u' = u.withParams p) where
  outputs _ _ h := by rw [h]; rfl
  setSkip h := by rw [h]; rfl
  writeReg _ _ _ h := by rw [h]; rfl
  select _ h := by rw [h]; rfl
  countDraw d h := by rw [h]; exact State.countDraw_withParams p _ d
  putDevice _ _ h := by rw [h]; rfl

theorem sameView_withParams (i : Instr) (s : State) (p : Params) : SameView i s (s.withParams p) :=
  ⟨fun _ _ => rfl, rfl, fun _ _ => rfl, rfl, rfl⟩

theorem execute_withParams (w : InstrWord) (s : State) (p : Params) :
    execute w (s.withParams p) = mapNext (State.withParams p) (execute w s) := by
  have sameFlag : (s.withParams p).skip = s.skip := rfl
  cases hs : s.skip with
  | true =>
    rw [execute_skipped hs, execute_skipped (sameFlag.trans hs)]
    rfl
  | false =>
    rw [execute_dispatched hs, execute_dispatched (sameFlag.trans hs)]
    exact ((carries_withParams _ s p).alike_exec (sameView_withParams _ s p) rfl).eq_mapNext

theorem transact_params {x : Txn} (h : transact x s = .next t) : t.params = s.params := by
  cases x with
  | execute w => obtain ⟨-, -, -, -, params⟩ := execute_keepsDriver h; exact params
  | configure c => obtain ⟨-, -, -, -, params⟩ := configure_keepsDriver h; exact params
  | writePc v => cases h; rfl

/-- Settles O60: no transaction and no step writes the parameters, and an instruction's updates carry others along. -/
theorem theParametersAreFixedAndInvisibleToInstructions :
    Obligations.TheParametersAreFixedAndInvisibleToInstructions := by
  refine ⟨fun x s t h => transact_params h, fun n s t h => ?_, execute_withParams⟩
  exact runSteps_induction (P := fun u => u.params = s.params)
    (fun u v same first => (step_prog_params first).2.trans same) rfl h

/-! #### The flags (10_state R25, R26, D15, log 17, log 20) -/

/-- The state with other flags. -/
def State.withFlags (f : Word) (s : State) : State := { s with flags := f }

theorem State.countDraw_withFlags (f : Word) (s : State) (d : Device) :
    (s.withFlags f).countDraw d = (s.countDraw d).withFlags f := by
  unfold State.countDraw
  split <;> rfl

/-- The updates of an instruction carry along that two states agree but for their flags. -/
theorem carries_flags (i : Instr) (s : State) (g : Word) :
    Carries i s (fun u u' => u'.withFlags g = u.withFlags g) where
  outputs r halt h := congrArg (fun u : State => { u with result := r, haltReq := halt }) h
  setSkip h := h
  writeReg j v _ h := congrArg (State.writeReg · j v) h
  select id h := congrArg (fun u : State => { u with active := some id }) h
  countDraw d h := by rw [← State.countDraw_withFlags, h, State.countDraw_withFlags]
  putDevice d _ h := congrArg (State.putDevice · d) h

theorem sameView_withFlags (i : Instr) (s : State) (f : Word) : SameView i s (s.withFlags f) :=
  ⟨fun _ _ => rfl, rfl, fun _ _ => rfl, rfl, rfl⟩

theorem exec_withFlags (i : Instr) (s : State) (f g : Word) :
    mapNext (State.withFlags g) (exec i (s.withFlags f)) = mapNext (State.withFlags g) (exec i s) :=
  ((carries_flags i s g).alike_exec (sameView_withFlags i s f) rfl).mapNext_eq

/-- A configuration transaction does the same with other flags, and keeps them. -/
theorem configure_withFlags (c : CfgTxn) (s : State) (f : Word) :
    configure c (s.withFlags f) = mapNext (State.withFlags f) (configure c s) := by
  cases c with
  | connectDevice d =>
    have sameDev : (s.withFlags f).dev d.id = s.dev d.id := rfl
    have sameRegistry : (s.withFlags f).registry = s.registry := rfl
    have sameParams : (s.withFlags f).params = s.params := rfl
    simp only [configure, connectDevice, sameDev, sameRegistry, sameParams]
    split_ifs <;> rfl
  | selectRamDevice id =>
    have sameDev : (s.withFlags f).dev id = s.dev id := rfl
    simp only [configure, selectRamDevice, sameDev]
    cases s.dev id <;> rfl

/-- Settles O39: what sets the flag is `execute_skip_iff`; what does not read the flags is the two commutations. -/
theorem theSkipFlagLivesForOneExecute : Obligations.TheSkipFlagLivesForOneExecute := by
  refine ⟨fun w s t h => execute_skip_iff h, fun w w' s t u _ set h => ?_, configure_withFlags,
    fun c s t h => configure_flags h, fun w s t k h failed => ?_, exec_withFlags⟩
  · refine Bool.eq_false_iff.mpr fun stillSet => ?_
    have clear := ((execute_skip_iff h).mp stillSet).1
    exact absurd (set.symm.trans clear) (by decide)
  · obtain ⟨unchanged, go, -⟩ := aFailingExecuteHasNoEffect w s t k h failed
    exact ⟨go, by rw [unchanged]⟩

/-! #### A register that an instruction does not read (10_state R21) -/

theorem State.writeReg_comm (s : State) {r q : Reg} (v w : Word) (h : q ≠ r) :
    (s.writeReg r v).writeReg q w = (s.writeReg q w).writeReg r v := by
  simp only [State.writeReg, RegFile.write_comm _ v w h]

theorem State.writeReg_writeReg_same (s : State) (r : Reg) (v w : Word) :
    (s.writeReg r v).writeReg r w = s.writeReg r w := by
  simp only [State.writeReg, RegFile.write_write_same]

theorem State.countDraw_writeReg (s : State) (r : Reg) (v : Word) (d : Device) :
    (s.writeReg r v).countDraw d = (s.countDraw d).writeReg r v := by
  unfold State.countDraw
  split <;> rfl

theorem sameView_writeReg {r : Reg} (unread : readsReg i r = false) (s : State) (v : Word) :
    SameView i s (s.writeReg r v) where
  regs q hq := State.readReg_writeReg_other s v (by rintro rfl; rw [unread] at hq; cases hq)
  active := rfl
  device _ _ := rfl
  ids := rfl
  draws := rfl

theorem carries_writeReg {r : Reg} (unwritten : writtenReg i ≠ some r) (s : State) (v : Word) :
    Carries i s (fun u u' => u' = u.writeReg r v) where
  outputs _ _ h := by rw [h]; rfl
  setSkip h := by rw [h]; rfl
  writeReg j w dst h := by
    rw [h]
    exact State.writeReg_comm _ v w (by rintro rfl; exact unwritten dst)
  select _ h := by rw [h]; rfl
  countDraw d h := by rw [h]; exact State.countDraw_writeReg _ r v d
  putDevice _ _ h := by rw [h]; rfl

/-- The updates of an instruction carry along that two states agree but for one register. -/
theorem carries_register (i : Instr) (s : State) (r : Reg) (z : Word) :
    Carries i s (fun u u' => u'.writeReg r z = u.writeReg r z) where
  outputs k halt h := congrArg (fun u : State => { u with result := k, haltReq := halt }) h
  setSkip h := congrArg State.setSkip h
  writeReg j w _ h := by
    by_cases hj : j = r
    · subst hj
      rw [State.writeReg_writeReg_same, State.writeReg_writeReg_same, h]
    · have apart : r ≠ j := fun same => hj same.symm
      rw [State.writeReg_comm _ w z apart, h, State.writeReg_comm _ w z apart]
  select id h := congrArg (fun u : State => { u with active := some id }) h
  countDraw d h := by rw [← State.countDraw_writeReg, h, State.countDraw_writeReg]
  putDevice d _ h := congrArg (State.putDevice · d) h

/-- Settles O37: the view of an instruction leaves out the registers it does not read. -/
theorem aRegisterNotReadDoesNotInfluenceAnInstruction : Obligations.ARegisterNotReadDoesNotInfluenceAnInstruction := by
  intro i s r v unread
  have view := sameView_writeReg unread s v
  exact ⟨fun unwritten => ((carries_writeReg unwritten s v).alike_exec view rfl).eq_mapNext,
    fun z => ((carries_register i s r z).alike_exec view (State.writeReg_writeReg_same s r v z)).mapNext_eq⟩

/-! #### A device that is not active (20_memory R64, R68) -/

theorem replaceDevice_comm (ds : List Device) {d e : Device} (apart : e.id ≠ d.id) :
    replaceDevice (replaceDevice ds d) e = replaceDevice (replaceDevice ds e) d := by
  induction ds with
  | nil => rfl
  | cons c cs ih =>
    by_cases hd : c.id = d.id
    · simp [replaceDevice, hd, Ne.symm apart]
    · by_cases he : c.id = e.id <;> simp [replaceDevice, hd, he, apart, ih]

theorem State.countDraw_putDevice (s : State) (d e : Device) :
    (s.putDevice d).countDraw e = (s.countDraw e).putDevice d := by
  unfold State.countDraw
  split <;> rfl

theorem sameView_putDevice {d : Device} (inactive : s.active ≠ some d.id) (i : Instr) :
    SameView i s (s.putDevice d) where
  regs _ _ := rfl
  active := rfl
  device _ act := State.dev_putDevice_other fun same => inactive (same ▸ act)
  ids := replaceDevice_ids _ _
  draws := rfl

/-- The one device an instruction puts back is the active one, so another stays replaced. -/
theorem carries_putDevice {d : Device} (inactive : s.active ≠ some d.id) (i : Instr) :
    Carries i s (fun u u' => u' = u.putDevice d) where
  outputs _ _ h := by rw [h]; rfl
  setSkip h := by rw [h]; rfl
  writeReg _ _ _ h := by rw [h]; rfl
  select _ h := by rw [h]; rfl
  countDraw e h := by rw [h]; exact State.countDraw_putDevice _ d e
  putDevice e act h := by
    have apart : e.id ≠ d.id := fun same => inactive (same ▸ act)
    rw [h]
    simp only [State.putDevice, replaceDevice_comm _ apart]

/-- Settles O40: the view of an instruction has only the active device, and the ids of the others. -/
theorem anInactiveDeviceDoesNotInfluenceAnInstruction : Obligations.AnInactiveDeviceDoesNotInfluenceAnInstruction :=
  fun i _ _ inactive _ => ((carries_putDevice inactive i).alike_exec (sameView_putDevice inactive i) rfl).eq_mapNext

end Sys2Proof.Machine
end
